-- ==== Sys2Proof/Word.lean ====
section
/-! DEFINITION. The words of the PBFE model: bytes, 16-bit and 32-bit values, and the 4-byte group that the magic
constant, the default pixel and the pixel buffer share (spec/00_scope.md rules R7, R9, R10). -/

namespace Sys2Proof

/-- One byte: the unit of the wire stream and of the host commands (R7, R58). -/
abbrev Byte := BitVec 8

/-- A 16-bit value: a pixel count or the RENDER operand (R7). -/
abbrev U16 := BitVec 16

/-- A 32-bit value: the accumulator, a frequency, an index, a time reading (R7). -/
abbrev U32 := BitVec 32

/-- Four bytes in index order: MAGIC[0..3] (R8), DEFAULT[0..3] (R40), PBUF[0..3] (R41), a colour answer (R12). -/
structure Quad where
  b0 : Byte
  b1 : Byte
  b2 : Byte
  b3 : Byte
  deriving DecidableEq, Repr, Inhabited

namespace Quad

/-- The four bytes, index 0 first (R10). -/
def toList (q : Quad) : List Byte := [q.b0, q.b1, q.b2, q.b3]

/-- Four zero bytes. -/
def zero : Quad := ⟨0, 0, 0, 0⟩

@[simp] theorem length_toList (q : Quad) : q.toList.length = 4 := rfl

end Quad

end Sys2Proof
end

