-- ==== Sys2Proof/Config.lean ====
section
/-! DEFINITION. The named parameters of a PBFE instance (spec/00_scope.md rule R8) and the values the machine of this
package takes for them. MAX_CH and MIN_GAP_RESET are OPEN in the spec: they are opaque constants with no body, so no
proof can see their values. MAGIC and TIME_W have a default in the spec (R8; D7, D15), which is used here. -/

namespace Sys2Proof

/-- The parameters of R8. The bounds R8 states for TIME_W (16 to 32) and MAX_CH (1 to 255) are built into the types,
so that no parameter set outside them exists. -/
structure Params where
  /-- MAGIC, written MAGIC[0] first (R53). -/
  magic : Quad
  /-- TIME_W - 16. -/
  timeWOver16 : Fin 17
  /-- MAX_CH - 1. -/
  maxChBelow : Fin 255
  /-- MIN_GAP_RESET; only its low TIME_W bits matter (R35 gives MIN_GAP TIME_W bits). -/
  minGapReset : U32
  deriving DecidableEq, Repr

namespace Params

/-- TIME_W, the width of the time input (R8). -/
def timeW (p : Params) : Nat := 16 + p.timeWOver16.val

/-- MAX_CH, the most entries the registry holds (R8). -/
def maxCh (p : Params) : Nat := p.maxChBelow.val + 1

end Params

namespace Config

/-- MAGIC's default `55 50 58 4C` (R8; D7). The spec marks the value as general knowledge (93, G3): log entry 11. -/
def magicDefault : Quad := ⟨0x55, 0x50, 0x58, 0x4C⟩

/-- MAX_CH - 1. OPEN in the spec (R8; D21): a free value, 0 to 254. -/
opaque maxChBelow : Fin 255

/-- MIN_GAP_RESET. OPEN in the spec (R8; D16): a free value. -/
opaque minGapReset : U32

/-! ## Free values (log entry 3): what the working registers hold where the spec gives them no value (R38 to R41, R147).
Each is applied to the count of draws so far. -/

/-- CH_IDX outside ENCODE (R38). -/
opaque freeChIdx : Nat → Nat

/-- PIX_I outside the pixel loop (R39). -/
opaque freePixI : Nat → U16

/-- EFF_ELEM outside ENCODE (R40). -/
opaque freeEffElem : Nat → Byte

/-- EFF_PIX outside ENCODE (R40). -/
opaque freeEffPix : Nat → U16

/-- DEFAULT outside ENCODE (R40). -/
opaque freeDefault : Nat → Quad

/-- PBUF after ENCODE (R147). -/
opaque freePbuf : Nat → Quad

/-- The parameters of the machine after `State.reset`: the spec's defaults (TIME_W = 32, MAGIC) and the free values. -/
def params : Params :=
  { magic := magicDefault, timeWOver16 := 16, maxChBelow := maxChBelow, minGapReset := minGapReset }

end Config

end Sys2Proof
end

