-- ==== Sys2Proof/Syntax.lean ====
section
/-! DEFINITION. The syntax: a registry entry (R24 to R30), and the ONE inductive of instructions, one constructor per
row of spec/opcode_table.json: the eleven host commands of R71, the five wire-record kinds of R76 that the encoder
writes, and the unassigned opcodes of R87. -/

namespace Sys2Proof

/-- A registry entry CH[i] (R23). Its 16-byte host layout is R73. -/
structure Channel where
  /-- ID[7:0], the channel identifier (R24). -/
  id : Byte
  /-- TYPE[7:0], the channel type: 1 single-wire, 3 clocked-data, 4 clock-only, any other unrecognized (R25, R86). -/
  typ : Byte
  /-- ELEM[7:0], the element count, bytes per pixel (R26). -/
  elem : Byte
  /-- CO[7:0], the colour order (R27). -/
  co : Byte
  /-- PIX[15:0], the pixel count (R28). -/
  pix : U16
  /-- START[31:0], the starting pixel index (R29). -/
  start : U32
  /-- FREQ[31:0], the clock frequency (R30). -/
  freq : U32
  deriving DecidableEq, Repr

/-- The instructions: the rows of spec/opcode_table.json. A host command is one transaction of the host port (R70).
A record row is what the sequencer executes for one pass of the encoder (R130): its operands are the fields that the
record's header and descriptor carry on the wire (R75 to R80). -/
inductive Instr where
  /-- CFG n, entries (R120). n is the number of entries. -/
  | cfg (entries : List Channel)
  /-- GETCFG (R121). -/
  | getcfg
  /-- SETGAP g (R172). -/
  | setgap (g : U32)
  /-- BEGIN speed (R170). -/
  | beginTx (speed : U32)
  /-- END (R171). -/
  | endTx
  /-- RENDER pixelCount (R173). -/
  | render (pixelCount : U16)
  /-- CRCINIT (R107). -/
  | crcinit
  /-- CRCUPD b (R108). -/
  | crcupd (b : Byte)
  /-- CRCLOAD v (R109). -/
  | crcload (v : U32)
  /-- CRCREAD (R110). -/
  | crcread
  /-- CRCFINAL (R111). -/
  | crcfinal
  /-- REC_SINGLE_WIRE: the record of a single-wire channel (R137). -/
  | recSingleWire (id elem co : Byte) (pix : U16)
  /-- REC_TERMINATOR: the draw-all record (R146). -/
  | recTerminator
  /-- REC_CLOCKED_DATA: the record of a clocked-data channel (R138). co3 is the 3-component colour order, six bits. -/
  | recClockedData (id : Byte) (freq : U32) (co3 : BitVec 6) (pix : U16)
  /-- REC_CLOCK_ONLY: the record of a clock-only channel (R139). -/
  | recClockOnly (id : Byte) (freq : U32)
  /-- REC_UNRECOGNIZED: the header-only record of any other channel type (R140). The tag is the channel's TYPE. -/
  | recUnrecognized (id tag : Byte)
  /-- UNASSIGNED: a transaction whose opcode is not in R71 (R87), with whatever bytes follow it. -/
  | unassigned (op : Byte) (rest : List Byte)
  deriving DecidableEq, Repr

/-- The eleven host commands of R71 (an unassigned opcode is no command). -/
def Instr.isCommand : Instr → Bool
  | .cfg _ | .getcfg | .setgap _ | .beginTx _ | .endTx | .render _ => true
  | .crcinit | .crcupd _ | .crcload _ | .crcread | .crcfinal => true
  | .recSingleWire .. | .recTerminator | .recClockedData .. | .recClockOnly .. | .recUnrecognized .. => false
  | .unassigned .. => false

/-- The five wire-record kinds of R76. -/
def Instr.isRecord : Instr → Bool
  | .recSingleWire .. | .recTerminator | .recClockedData .. | .recClockOnly .. | .recUnrecognized .. => true
  | .cfg _ | .getcfg | .setgap _ | .beginTx _ | .endTx | .render _ => false
  | .crcinit | .crcupd _ | .crcload _ | .crcread | .crcfinal => false
  | .unassigned .. => false

/-- The two record kinds with pixels and a notification (R141). -/
def Instr.isPixelRecord : Instr → Bool
  | .recSingleWire .. | .recClockedData .. => true
  | .recTerminator | .recClockOnly .. | .recUnrecognized .. => false
  | .cfg _ | .getcfg | .setgap _ | .beginTx _ | .endTx | .render _ => false
  | .crcinit | .crcupd _ | .crcload _ | .crcread | .crcfinal => false
  | .unassigned .. => false

end Sys2Proof
end

