-- ==== Sys2Proof/WellFormed.lean ====
section
/-! DEFINITION. Which instruction terms are instructions: the checks the encodings of spec/30_encoding.md make. -/

namespace Sys2Proof

/-- The opcode map of R71. -/
def assignedOpcode (op : Byte) : Bool :=
  [0x01#8, 0x02#8, 0x03#8, 0x04#8, 0x05#8, 0x06#8, 0x10#8, 0x11#8, 0x12#8, 0x13#8, 0x14#8].contains op

/-- The recognized channel types of R86: single-wire, clocked-data, clock-only. -/
def recognizedType (t : Byte) : Bool := [0x01#8, 0x03#8, 0x04#8].contains t

/-- An instruction is well-formed when its encoding can carry it: CFG's count byte n is one byte (R71, R120), an
unrecognized record's tag is none of the recognized types (R76, R86), and an unassigned opcode is not in the map
(R71, R87). Every other field is as wide as its encoding. -/
def Instr.wellFormed : Instr → Bool
  | .cfg entries => decide (entries.length ≤ 255)
  | .recUnrecognized _ tag => !recognizedType tag
  | .unassigned op _ => !assignedOpcode op
  | .getcfg | .setgap _ | .beginTx _ | .endTx | .render _ => true
  | .crcinit | .crcupd _ | .crcload _ | .crcread | .crcfinal => true
  | .recSingleWire .. | .recTerminator | .recClockedData .. | .recClockOnly .. => true

end Sys2Proof
end

