-- ==== Sys2Proof/Machine/Operands.lean ====
section
/-! DEFINITION. Operand forms: little-endian serialisation and assembly (R10, R51, R55, R72), the 16-byte registry entry
(R73), the colour-order packing (R74, R27), and the header and descriptor fields of a wire record (R75 to R79). -/

namespace Sys2Proof

/-- le_2(v) of R10. -/
def le2 (v : U16) : List Byte := [v.extractLsb' 0 8, v.extractLsb' 8 8]

/-- le_4(v) of R10. -/
def le4 (v : U32) : List Byte := [v.extractLsb' 0 8, v.extractLsb' 8 8, v.extractLsb' 16 8, v.extractLsb' 24 8]

/-- Assembly of a 2-byte operand (R72): the byte at the higher offset is the high part. -/
def asm2 (b0 b1 : Byte) : U16 := b1 ++ b0

/-- Assembly of a 4-byte operand (R72). -/
def asm4 (b0 b1 b2 b3 : Byte) : U32 := b3 ++ b2 ++ b1 ++ b0

/-- The byte at offset k of a command's operand bytes; the callers have checked the length. -/
def byteAt (bs : List Byte) (k : Nat) : Byte := bs.getD k 0

/-- How many bytes a registry entry has (R73). -/
@[simp] abbrev entryBytes : Nat := 16

/-- One entry read from its 16 bytes (R73, R120). Bytes 6 and 7 are reserved and ignored. -/
def decodeEntry (bs : List Byte) : Channel :=
  { id := byteAt bs 0
    typ := byteAt bs 1
    elem := byteAt bs 2
    co := byteAt bs 3
    pix := asm2 (byteAt bs 4) (byteAt bs 5)
    start := asm4 (byteAt bs 8) (byteAt bs 9) (byteAt bs 10) (byteAt bs 11)
    freq := asm4 (byteAt bs 12) (byteAt bs 13) (byteAt bs 14) (byteAt bs 15) }

/-- One entry as its 16 bytes (R73, R121). The reserved bytes are 0. -/
def encodeEntry (ch : Channel) : List Byte :=
  [ch.id, ch.typ, ch.elem, ch.co] ++ le2 ch.pix ++ [0, 0] ++ le4 ch.start ++ le4 ch.freq

/-- n consecutive entries. -/
def decodeEntries : Nat → List Byte → List Channel
  | 0, _ => []
  | n + 1, bs => decodeEntry (bs.take entryBytes) :: decodeEntries n (bs.drop entryBytes)

/-- The entries of a list, one after the other. -/
def encodeEntries (chs : List Channel) : List Byte := chs.flatMap encodeEntry

/-! ## Colour order (R74, R27) -/

/-- co_pack of R74: red in bits 1:0, green in 3:2, blue in 5:4, white in 7:6. -/
def coPack (r g b w : BitVec 2) : Byte := w ++ b ++ g ++ r

/-- RI, the red index (R27). -/
def Channel.ri (ch : Channel) : BitVec 2 := ch.co.extractLsb' 0 2

/-- GI, the green index (R27). -/
def Channel.gi (ch : Channel) : BitVec 2 := ch.co.extractLsb' 2 2

/-- BI, the blue index (R27). -/
def Channel.bi (ch : Channel) : BitVec 2 := ch.co.extractLsb' 4 2

/-- WI, the white index (R27). -/
def Channel.wi (ch : Channel) : BitVec 2 := ch.co.extractLsb' 6 2

/-- co_unpack of R74: red, green, blue, white. -/
def coUnpack (c : Byte) : BitVec 2 × BitVec 2 × BitVec 2 × BitVec 2 :=
  (c.extractLsb' 0 2, c.extractLsb' 2 2, c.extractLsb' 4 2, c.extractLsb' 6 2)

/-- co3 of R74 as the six bits it keeps: red, green and blue. -/
def co3Bits (c : Byte) : BitVec 6 := c.extractLsb' 0 6

/-- co3 of R74 as the byte the clocked-data descriptor carries: bits 7:6 are 0. -/
def co3 (c : Byte) : Byte := c &&& 0x3F

/-! ## Record headers and descriptors -/

/-- header(id, tag) of R75. -/
def header (magic : Quad) (id tag : Byte) : List Byte := magic.toList ++ [id, tag]

/-- The single-wire descriptor of R77. -/
def descSingleWire (elem co : Byte) (pix : U16) : List Byte := [elem, co] ++ le2 pix

/-- The clocked-data descriptor of R78: frequency, colour order, pixel count. -/
def descClockedData (freq : U32) (co : BitVec 6) (pix : U16) : List Byte := le4 freq ++ [co.setWidth 8] ++ le2 pix

/-- The clock-only descriptor of R79. -/
def descClockOnly (freq : U32) : List Byte := le4 freq

/-- The single-wire tag (R76). -/
@[simp] abbrev tagSingleWire : Byte := 0x01#8
/-- The terminator's tag (R76). -/
@[simp] abbrev tagTerminator : Byte := 0x02#8
/-- The clocked-data tag (R76). -/
@[simp] abbrev tagClockedData : Byte := 0x03#8
/-- The clock-only tag (R76). -/
@[simp] abbrev tagClockOnly : Byte := 0x04#8
/-- The terminator's channel id (R83). -/
@[simp] abbrev idTerminator : Byte := 0xFF#8

/-- The record row that stands for a registry entry: the type dispatch of R136 (R86). -/
def recordOf (ch : Channel) : Instr :=
  if ch.typ = tagSingleWire then .recSingleWire ch.id ch.elem ch.co ch.pix
  else if ch.typ = tagClockedData then .recClockedData ch.id ch.freq (co3Bits ch.co) ch.pix
  else if ch.typ = tagClockOnly then .recClockOnly ch.id ch.freq
  else .recUnrecognized ch.id ch.typ

end Sys2Proof
end

