-- ==== Sys2Proof/Decode.lean ====
section
/-! DEFINITION. Decoding, total on any bytes: `decode` reads one transaction of the host command port (R70 to R73),
`decodeRecord` reads the header and descriptor of a wire record from the front of a byte stream (R75 to R80, R85).
After them the encoder, written from the same tables, and the form in which spec/opcode_table.json numbers bits. -/

namespace Sys2Proof

/-- Why a host transaction is no instruction. -/
inductive DecodeError where
  /-- The transaction has no byte at all, so it has no opcode (log entry 7). -/
  | noOpcode
  /-- More or fewer bytes than the opcode needs (R72, R87); a CFG with no count byte is one (R120). -/
  | length (op : Byte)
  /-- A CFG with count byte n whose entry bytes are not 16 n in number (R120). -/
  | cfgLength (n : Byte)
  deriving DecidableEq, Repr

/-- An opcode without operands (format CMD-0 of the opcode table). -/
def decode0 (i : Instr) (op : Byte) : List Byte → Except DecodeError Instr
  | [] => .ok i
  | _ => .error (.length op)

/-- A 1-byte operand (R72). -/
def decode1 (f : Byte → Instr) (op : Byte) : List Byte → Except DecodeError Instr
  | [b] => .ok (f b)
  | _ => .error (.length op)

/-- A 2-byte operand (R72). -/
def decode2 (f : U16 → Instr) (op : Byte) : List Byte → Except DecodeError Instr
  | [b0, b1] => .ok (f (asm2 b0 b1))
  | _ => .error (.length op)

/-- A 4-byte operand (R72). -/
def decode4 (f : U32 → Instr) (op : Byte) : List Byte → Except DecodeError Instr
  | [b0, b1, b2, b3] => .ok (f (asm4 b0 b1 b2 b3))
  | _ => .error (.length op)

/-- CFG's operands: the count byte n, then n entries (R71, R120). -/
def decodeCfg (op : Byte) : List Byte → Except DecodeError Instr
  | [] => .error (.length op)
  | n :: rest =>
    if rest.length = entryBytes * n.toNat then .ok (.cfg (decodeEntries n.toNat rest)) else .error (.cfgLength n)

/-- The host command decoder: the opcode map of R71. An opcode outside it is UNASSIGNED, whatever follows (R87, R195). -/
def decode : List Byte → Except DecodeError Instr
  | [] => .error .noOpcode
  | op :: args =>
    if op = 0x01#8 then decodeCfg op args
    else if op = 0x02#8 then decode0 .getcfg op args
    else if op = 0x03#8 then decode4 .setgap op args
    else if op = 0x04#8 then decode4 .beginTx op args
    else if op = 0x05#8 then decode0 .endTx op args
    else if op = 0x06#8 then decode2 .render op args
    else if op = 0x10#8 then decode0 .crcinit op args
    else if op = 0x11#8 then decode1 .crcupd op args
    else if op = 0x12#8 then decode4 .crcload op args
    else if op = 0x13#8 then decode0 .crcread op args
    else if op = 0x14#8 then decode0 .crcfinal op args
    else .ok (.unassigned op args)

/-- Why the front of a byte stream is no record header and descriptor. -/
inductive RecordError where
  /-- Fewer bytes than the header, or than the tag's descriptor, needs. -/
  | short
  /-- The first four bytes are not MAGIC (R75). -/
  | notMagic
  /-- Bits 7:6 of a clocked-data colour-order byte are not 0 (R74, R78): no record PBFE writes. -/
  | colourBits
  deriving DecidableEq, Repr

/-- The descriptor after a header, selected by the tag (R77 to R80, R85). With id 0xFF, tag 2 is the terminator (R83);
with another id it is the header-only record of a TYPE 2 channel (R87). -/
def decodeDescriptor (id tag : Byte) (bs : List Byte) : Except RecordError (Instr × List Byte) :=
  if tag = tagSingleWire then
    match bs with
    | e :: c :: p0 :: p1 :: rest => .ok (.recSingleWire id e c (asm2 p0 p1), rest)
    | _ => .error .short
  else if tag = tagClockedData then
    match bs with
    | f0 :: f1 :: f2 :: f3 :: c :: p0 :: p1 :: rest =>
      if c = co3 c then .ok (.recClockedData id (asm4 f0 f1 f2 f3) (co3Bits c) (asm2 p0 p1), rest)
      else .error .colourBits
    | _ => .error .short
  else if tag = tagClockOnly then
    match bs with
    | f0 :: f1 :: f2 :: f3 :: rest => .ok (.recClockOnly id (asm4 f0 f1 f2 f3), rest)
    | _ => .error .short
  else if tag = tagTerminator ∧ id = idTerminator then .ok (.recTerminator, bs)
  else .ok (.recUnrecognized id tag, bs)

/-- The wire-record decoder: the record's header and descriptor, and the bytes after them (payload and checksum). -/
def decodeRecord (magic : Quad) : List Byte → Except RecordError (Instr × List Byte)
  | m0 :: m1 :: m2 :: m3 :: id :: tag :: rest =>
    if [m0, m1, m2, m3] = magic.toList then decodeDescriptor id tag rest else .error .notMagic
  | _ => .error .short

/-- The encoder: a host command's transaction (R71 to R73), or a record's header and descriptor (R75 to R80, R83). -/
def encode (magic : Quad) : Instr → List Byte
  | .cfg entries => [0x01#8, BitVec.ofNat 8 entries.length] ++ encodeEntries entries
  | .getcfg => [0x02#8]
  | .setgap g => 0x03#8 :: le4 g
  | .beginTx speed => 0x04#8 :: le4 speed
  | .endTx => [0x05#8]
  | .render pixelCount => 0x06#8 :: le2 pixelCount
  | .crcinit => [0x10#8]
  | .crcupd b => [0x11#8, b]
  | .crcload v => 0x12#8 :: le4 v
  | .crcread => [0x13#8]
  | .crcfinal => [0x14#8]
  | .recSingleWire id elem co pix => header magic id tagSingleWire ++ descSingleWire elem co pix
  | .recTerminator => header magic idTerminator tagTerminator
  | .recClockedData id freq co pix => header magic id tagClockedData ++ descClockedData freq co pix
  | .recClockOnly id freq => header magic id tagClockOnly ++ descClockOnly freq
  | .recUnrecognized id tag => header magic id tag
  | .unassigned op rest => op :: rest

/-- How many bytes the encoding of an instruction has (R71, R75 to R80). -/
def Instr.encodedLength : Instr → Nat
  | .cfg entries => 2 + entryBytes * entries.length
  | .getcfg | .endTx | .crcinit | .crcread | .crcfinal => 1
  | .setgap _ | .beginTx _ | .crcload _ => 5
  | .render _ => 3
  | .crcupd _ => 2
  | .recSingleWire .. => 6 + 4
  | .recTerminator => 6
  | .recClockedData .. => 6 + 7
  | .recClockOnly .. => 6 + 4
  | .recUnrecognized .. => 6
  | .unassigned _ rest => 1 + rest.length

/-! ## Words numbered as the opcode table numbers them -/

/-- The first k bytes of a word, bit 0 the least significant bit of the first byte. -/
def wordBytes : Nat → Nat → List Byte
  | 0, _ => []
  | k + 1, w => BitVec.ofNat 8 w :: wordBytes k (w / 256)

/-- How many bytes a transaction that begins with these bytes needs (R71, R72). An unassigned opcode needs no more
than it has. -/
def neededBytes : List Byte → Nat
  | [] => 0
  | op :: args =>
    if op = 0x01#8 then 2 + entryBytes * (byteAt args 0).toNat
    else if op = 0x02#8 ∨ op = 0x05#8 ∨ op = 0x10#8 ∨ op = 0x13#8 ∨ op = 0x14#8 then 1
    else if op = 0x11#8 then 2
    else if op = 0x06#8 then 3
    else if op = 0x03#8 ∨ op = 0x04#8 ∨ op = 0x12#8 then 5
    else 1 + args.length

/-- The bytes of a table word: its own nbits / 8 bytes, then zero bytes as far as its opcode needs operands. -/
def tableBytes (nbits w : Nat) : List Byte :=
  let bs := wordBytes (nbits / 8) w
  bs ++ List.replicate (neededBytes bs - bs.length) 0#8

/-- A word of at least six bytes that opens with MAGIC is a wire record's header (R75): a record row of the table, not
a host transaction (log entry 15). Bytes of its descriptor above nbits are 0. -/
def tableRecord (magic : Quad) (nbits w : Nat) : Option Instr :=
  let bs := wordBytes (nbits / 8) w
  if 6 ≤ bs.length ∧ bs.take 4 = magic.toList then
    match decodeRecord magic (bs ++ List.replicate 7 0#8) with
    | .ok (i, _) => some i
    | .error _ => none
  else none

/-- The instruction the decoder reads from a word of the opcode table. -/
def decodeTableWord (nbits w : Nat) : Option Instr :=
  match tableRecord Config.magicDefault nbits w with
  | some i => some i
  | none => (decode (tableBytes nbits w)).toOption

end Sys2Proof
end

