-- ==== Sys2Proof/Machine/Checksum.lean ====
section
/-! DEFINITION. The checksum engine as pure functions (R100 to R105): the nibble table built from the polynomial, the
nibble, byte and buffer updates, seed and finalize. -/

namespace Sys2Proof.Machine

/-- POLY, the reflected CRC-32 polynomial (R100; the spec marks it general knowledge, G1). -/
def poly : U32 := 0xEDB88320

/-- One reflected shift step of R100's loop. -/
def shiftStep (c : U32) : U32 := if c.getLsbD 0 then (c >>> 1) ^^^ poly else c >>> 1

/-- T[i]: four reflected shift steps from zext_32(i) (R100). -/
def crcTable (i : BitVec 4) : U32 := shiftStep (shiftStep (shiftStep (shiftStep (i.setWidth 32))))

/-- nib(s, n) of R101. -/
def nib (s : U32) (n : BitVec 4) : U32 := crcTable ((s ^^^ n.setWidth 32).extractLsb' 0 4) ^^^ (s >>> 4)

/-- upd_byte(s, b) of R102: the low nibble first, then the high nibble. -/
def updByte (s : U32) (b : Byte) : U32 := nib (nib s (b.extractLsb' 0 4)) (b.extractLsb' 4 4)

/-- upd(s, bytes) of R103. -/
def upd : U32 → List Byte → U32
  | s, [] => s
  | s, b :: bs => upd (updByte s b) bs

/-- SEED (R104). -/
@[simp] abbrev seed : U32 := 0xFFFFFFFF#32

/-- final(s) of R104. -/
def final (s : U32) : U32 := s ^^^ 0xFFFFFFFF#32

/-- crc32(B) of R104. -/
def crc32 (bs : List Byte) : U32 := final (upd seed bs)

end Sys2Proof.Machine
end

