-- ==== Sys2Proof/Machine/State.lean ====
section
/-! DEFINITION. The state of one PBFE instance as plain data: every register of spec/10_state.md, and beside them the
model's own fields: the instance's parameters (R8), the environment's moves still to come (R5, R48, R205) and the
trace, which is the observation (R13). -/

namespace Sys2Proof.Machine

/-- PHASE, the sequencer's position (R36). -/
inductive Phase where
  | idle
  | gapWait
  | encode
  | post
  | refused
  deriving DecidableEq, Repr

/-- The step inside a phase (R36: "the position inside it is CH_IDX, PIX_I and the step of that rule"). Each position
but `rest` names the next thing the sequencer does or the call it waits in. -/
inductive Position where
  /-- No step in progress: IDLE between commands, or the poll loop of GAP_WAIT. -/
  | rest
  /-- BEGIN waits for its flush to complete; the operand is its speed (R170; log entry 6). -/
  | beginFlush (speed : U32)
  /-- ENCODE is at its first line, the CONFIGURED check (R131). -/
  | enter
  /-- ENCODE is at the start of the pass of CH_IDX (R132), or at the terminator when no entry is left (R146). -/
  | visit
  /-- The notifier has been called and has not returned (R141, R205). -/
  | notify
  /-- ENCODE is at the pixel loop's test (R130, R142). -/
  | pixel
  /-- The colour source has been asked for this index and has not returned (R142, R205). -/
  | color (idx : U32)
  /-- POST is at its Yield (R177). -/
  | postYield
  /-- The flush of the post-sequence has been called and has not completed (R177, R178). -/
  | postFlush
  deriving DecidableEq, Repr

/-- The reasons a refusal records (R192). -/
inductive RefReason where
  /-- REF_OPCODE: the opcode is not in R71. -/
  | opcode
  /-- REF_LENGTH: more or fewer bytes than the opcode needs. -/
  | length
  /-- REF_BUSY: a command arrived while BUSY = 1. -/
  | busy
  /-- REF_CLOSED: RENDER while OPEN = 0. -/
  | closed
  /-- REF_MAXCH: CFG with n > MAX_CH. -/
  | maxCh
  /-- REF_ELEM: a single-wire ELEM of 5 to 255 reached a pixel. -/
  | elem
  /-- REF_INDEX: a pixel index above 2^32 - 1. -/
  | index
  deriving DecidableEq, Repr

/-- One entry of the observed trace (R12, R13): a port event, a host command as issued, or a response returned. -/
inductive Event where
  /-- `Write(b)`: one byte to the transport. -/
  | write (b : Byte)
  /-- `Flush`: the transport is asked to flush. -/
  | flush
  /-- `Open(s)`: the transport is opened at a symbol rate. -/
  | openPort (speed : U32)
  /-- `Close`. -/
  | closePort
  /-- `Yield`. -/
  | yield
  /-- `Time(t)`: a reading of the time input. -/
  | time (t : U32)
  /-- `Color(idx)`: the colour source is asked for a pixel. -/
  | color (idx : U32)
  /-- `Switch(id, tag, desc)`: the channel-switch notification. -/
  | switch (id tag : Byte) (desc : List Byte)
  /-- A host command, whole, as it was issued (R13, R70). -/
  | command (bytes : List Byte)
  /-- A response that has at least one byte (R13, R70; log entry 8). -/
  | response (bytes : List Byte)
  deriving DecidableEq, Repr

/-- The colour source's answer: four bytes and a 4-bit byte-enable (R12, R143). -/
structure ColorAnswer where
  data : Quad
  en : BitVec 4
  deriving DecidableEq, Repr

/-- The environment's moves still to come, plain data under no law (R5, R48, R201, R205). They are inputs, no PBFE
register: PBFE only takes them, in order (log entry 2). -/
structure Env where
  /-- The host command port: the transactions the host will issue, each when PBFE is idle (R70, R205). -/
  host : List (List Byte)
  /-- The time input: the readings `Now()` returns next (R12). -/
  time : List U32
  /-- What the time input reads when `time` holds no further reading: an input that is stuck (R228). -/
  clock : U32
  /-- How many flushes the transport will complete. At 0 a flush blocks for ever (R178). -/
  flushAcks : Nat
  /-- How many times the notifier will return. At 0 a call of it never returns (R205). -/
  notifyAcks : Nat
  /-- The colour source's answers. With none left a call of it never returns (R205). -/
  colors : List ColorAnswer
  /-- What other tasks do at each point where they can run during a command: a yield, a blocking flush, a callback
  (R63, R68). `some c`: they issue command c to this instance. `none`, or no entry: they issue none. -/
  intruders : List (Option (List Byte))
  /-- The power-on reset input, one sample a step (R220; log entry 13). `some k`: a reset comes when the step has appended
  k events. `none`, or no entry: no reset. -/
  resetLine : List (Option Nat)
  deriving DecidableEq, Repr

namespace Env

/-- No environment move is pending: nothing is issued and no call returns. -/
def silent : Env :=
  { host := [], time := [], clock := 0, flushAcks := 0, notifyAcks := 0, colors := [], intruders := [], resetLine := [] }

end Env

/-- The state of one instance (R20 to R42), and the model's own fields `params`, `draws`, `env` and `trace`. -/
structure State where
  /-- The parameters of R8: fixed, no PBFE register (R48). -/
  params : Params
  /-- ACC[31:0], the checksum accumulator (R21). -/
  acc : U32
  /-- CONFIGURED (R22). -/
  configured : Bool
  /-- CH[0..NCH-1]; NCH is the length of the list (R23, R31). -/
  channels : List Channel
  /-- OPEN (R32). -/
  isOpen : Bool
  /-- SPEED[31:0] (R33). -/
  speed : U32
  /-- LAST_DONE[TIME_W-1:0], zero-extended to 32 bits (R34). -/
  lastDone : U32
  /-- MIN_GAP[TIME_W-1:0], zero-extended to 32 bits (R35). -/
  minGap : U32
  /-- PHASE (R36). -/
  phase : Phase
  /-- The step inside the phase (R36). -/
  pos : Position
  /-- CH_IDX (R38). -/
  chIdx : Nat
  /-- PIX_I[15:0] (R39). -/
  pixI : U16
  /-- EFF_ELEM[7:0] (R40). -/
  effElem : Byte
  /-- EFF_PIX[15:0] (R40). -/
  effPix : U16
  /-- DEFAULT[0..3] (R40). -/
  dflt : Quad
  /-- PBUF[0..3] (R41). -/
  pbuf : Quad
  /-- REFUSED and the reason it records (R42, R193); `none` is clear. -/
  refused : Option RefReason
  /-- How many free values have been drawn: the model's own counter, no PBFE register (log entry 3). -/
  draws : Nat
  /-- The environment's moves still to come. -/
  env : Env
  /-- The trace, oldest entry first (R13). -/
  trace : List Event
  deriving DecidableEq, Repr

/-- A PBFE step never faults: PBFE has no exceptions (R190), and no behaviour is a fault (spec/93). No constructor, so
nothing raises one; safe. -/
inductive Fault where
  deriving DecidableEq, Repr

/-- Why a step or an instruction has no meaning. -/
inductive Refusal where
  /-- Raised by an arm of exec whose instruction has no meaning yet. Safe: nothing is claimed of it. -/
  | notModelled (mnemonic : String)
  /-- Raised in PHASE REFUSED by every meaning, and by `step` while no reset comes: "No later command or step of that
  instance has a meaning" (R193). Safe: nothing is claimed of the run from there. -/
  | afterRefusal
  deriving DecidableEq, Repr

namespace State

/-- NCH, the number of entries (R31). -/
def nch (s : State) : Nat := s.channels.length

/-- The state after power-on reset of an instance with parameters p (R220). The registers R220 gives no value hold
zeros (log entry 3); the environment is silent (log entry 2). MIN_GAP has TIME_W bits (R35). -/
def resetWith (p : Params) : State :=
  { params := p
    acc := 0xFFFFFFFF
    configured := false
    channels := []
    isOpen := false
    speed := 0
    lastDone := 0
    minGap := BitVec.ofNat 32 (p.minGapReset.toNat % 2 ^ p.timeW)
    phase := .idle
    pos := .rest
    chIdx := 0
    pixI := 0
    effElem := 0
    effPix := 0
    dflt := Quad.zero
    pbuf := Quad.zero
    refused := none
    draws := 0
    env := Env.silent
    trace := [] }

/-- The machine right after reset (R220, R221). -/
def reset : State := resetWith Config.params

end State

end Sys2Proof.Machine
end

