-- ==== Sys2Proof/Machine/Flags.lean ====
section
/-! DEFINITION. Flags. PBFE has no status flags, condition codes or predicates, and no status bit tells how the last
render ended (R43). The one derived bit is BUSY (R37); with it, whether a command can be taken up. -/

namespace Sys2Proof.Machine.State

/-- BUSY: PHASE is neither IDLE nor REFUSED (R37). -/
def busy (s : State) : Bool := decide (s.phase ≠ .idle ∧ s.phase ≠ .refused)

/-- PBFE is idle and no command is in progress: it can take up a command (R70, R205). -/
def ready (s : State) : Bool := decide (s.phase = .idle ∧ s.pos = .rest)

end Sys2Proof.Machine.State
end

