-- ==== Sys2Proof/Machine/Ops.lean ====
section
/-! DEFINITION. The shared operations: events and responses, raising a refusal (the one transfer out of normal operation
the spec describes, R193), the environment's calls, the checksummed write, the gap test, and reset. -/

namespace Sys2Proof.Machine

/-! ## The trace -/

/-- Append entries to the trace, in order (R12, R13). -/
def emit (es : List Event) (s : State) : State := { s with trace := s.trace ++ es }

/-- A command's response (R70). -/
def respond (bs : List Byte) (s : State) : State := emit [.response bs] s

/-! ## Refusals and reset -/

/-- `raise Refused(reason)` (R193): set the mark, record the reason, move PHASE to REFUSED; no event.
DESIGN CHOICE (log entry 3): at a refusal inside ENCODE the working registers keep their last values, although R38 to R40
give them none outside ENCODE. -/
def raise (r : RefReason) (s : State) : State := { s with phase := .refused, refused := some r }

/-- PIX_I has no value outside the pixel loop (R39): a free value (log entry 3). -/
def dropPixI (s : State) : State := { s with pixI := Config.freePixI s.draws, draws := s.draws + 1 }

/-- The working registers have no value after ENCODE (R38 to R41, R147): free values (log entry 3). -/
def dropWorking (s : State) : State :=
  { s with
    chIdx := Config.freeChIdx s.draws
    pixI := Config.freePixI s.draws
    effElem := Config.freeEffElem s.draws
    effPix := Config.freeEffPix s.draws
    dflt := Config.freeDefault s.draws
    pbuf := Config.freePbuf s.draws
    draws := s.draws + 1 }

/-- The end of a command or a render: PHASE is IDLE again (R36, R173). -/
def toIdle (s : State) : State := { s with phase := .idle, pos := .rest }

/-- Power-on reset (R220): every register at its reset value, the REFUSED mark clear (R42; 90_conflicts.md C10), no event, a
render in progress abandoned. The parameters,
the draw counter, the environment and the trace are no registers and stay (log entry 13). -/
def powerOn (s : State) : State := { State.resetWith s.params with draws := s.draws, env := s.env, trace := s.trace }

/-! ## The environment's calls -/

/-- A time value reduced to the TIME_W bits of the time input (R8, R34, R35). -/
def tick (p : Params) (v : U32) : U32 := BitVec.ofNat 32 (v.toNat % 2 ^ p.timeW)

/-- The value the next `Now()` returns (R12): the environment's next reading, as TIME_W bits. -/
def reading (s : State) : U32 :=
  match s.env.time with
  | [] => tick s.params s.env.clock
  | t :: _ => tick s.params t

/-- `Now()`: take the reading, event `Time(t)` (R12). The value taken is `reading s`. -/
def now (s : State) : State :=
  emit [.time (reading s)] { s with env := { s.env with time := s.env.time.tail } }

/-- Which refusal a command meets that is issued while another is in progress: the opcode is tested first, then BUSY
(R195; log entry 5). -/
def intrusionReason : List Byte → RefReason
  | [] => .busy
  | op :: _ => if assignedOpcode op then .busy else .opcode

/-- A point of a command at which other tasks can run (R63): if one of them issues a command to this instance, that
command is refused (R68, R192, R205); otherwise the command goes on with k. -/
def window (k : State → State) (s : State) : State :=
  match s.env.intruders with
  | [] => k s
  | none :: rest => k { s with env := { s.env with intruders := rest } }
  | some c :: rest =>
    raise (intrusionReason c) (emit [.command c] { s with env := { s.env with intruders := rest } })

/-- A blocking flush in progress (R64): other tasks can run; then, if the transport reports the flush complete, go on
with k; otherwise wait (R178). -/
def flushWait (k : State → State) : State → State :=
  window fun s =>
    match s.env.flushAcks with
    | 0 => s
    | n + 1 => k { s with env := { s.env with flushAcks := n } }

/-- A call of the notifier in progress (R141, R205). -/
def notifyWait (k : State → State) : State → State :=
  window fun s =>
    match s.env.notifyAcks with
    | 0 => s
    | n + 1 => k { s with env := { s.env with notifyAcks := n } }

/-- A call of the colour source in progress (R142, R205). -/
def colorWait (k : ColorAnswer → State → State) : State → State :=
  window fun s =>
    match s.env.colors with
    | [] => s
    | a :: rest => k a { s with env := { s.env with colors := rest } }

/-! ## Commands -/

/-- What a refused instance answers: "No later command or step of that instance has a meaning" (R193). Every meaning
starts with this test. -/
def unlessRefused (k : State → Host.Outcome State Fault Refusal) (s : State) : Host.Outcome State Fault Refusal :=
  if s.phase = .refused then .refused .afterRefusal else k s

/-- A host command's frame (R70, R190, R192, R193): when PBFE is idle the body runs; while a command is in progress
the command is refused with REF_BUSY; after a refusal nothing has a meaning. -/
def hostCommand (body : State → State) (s : State) : Host.Outcome State Fault Refusal :=
  unlessRefused (fun s => if s.ready then .next (body s) else .next (raise .busy s)) s

/-! ## The checksummed write -/

/-- EmitC (R135): every byte is written and fed to ACC. -/
def emitC (bs : List Byte) (s : State) : State :=
  emit (bs.map .write) { s with acc := upd s.acc bs }

/-- EmitChecksum (R144): the finalized value, little-endian; ACC keeps the raw accumulator. -/
def emitChecksum (s : State) : State := emit ((le4 (final s.acc)).map .write) s

/-! ## The gap -/

/-- elapsed(t, l) of R175: the difference modulo 2^TIME_W. -/
def elapsed (p : Params) (t l : U32) : U32 := tick p (t - l)

/-- The gap test of R174: elapsed(t, LAST_DONE) >= MIN_GAP, unsigned (R9). -/
def gapPassed (s : State) (t : U32) : Bool := decide (s.minGap ≤ elapsed s.params t s.lastDone)

end Sys2Proof.Machine
end

