-- ==== Sys2Proof/Machine/Crc.lean ====
section
/-! DEFINITION. The host CRC commands (R107 to R111): the host's own use of the engine through ACC. -/

namespace Sys2Proof.Machine

/-- CRCINIT (R107): ACC is the seed. -/
def execCrcinit (s : State) : Host.Outcome State Fault Refusal :=
  hostCommand (fun s => { s with acc := seed }) s

/-- CRCUPD b (R108): feed one byte to ACC. -/
def execCrcupd (b : Byte) (s : State) : Host.Outcome State Fault Refusal :=
  hostCommand (fun s => { s with acc := updByte s.acc b }) s

/-- CRCLOAD v (R109): set ACC. -/
def execCrcload (v : U32) (s : State) : Host.Outcome State Fault Refusal :=
  hostCommand (fun s => { s with acc := v }) s

/-- CRCREAD (R110): return the raw accumulator. -/
def execCrcread (s : State) : Host.Outcome State Fault Refusal :=
  hostCommand (fun s => respond (le4 s.acc) s) s

/-- CRCFINAL (R111): return the finalized value; ACC is not changed. -/
def execCrcfinal (s : State) : Host.Outcome State Fault Refusal :=
  hostCommand (fun s => respond (le4 (final s.acc)) s) s

end Sys2Proof.Machine
end

