-- ==== Sys2Proof/Machine/Driver.lean ====
section
/-! DEFINITION. The transmission driver: BEGIN, END, SETGAP and RENDER (R170 to R173), the gap wait (R174, R175) and the
post-sequence (R177). -/

namespace Sys2Proof.Machine

/-- The rest of BEGIN once its flush is complete (R170): open the transport, capture the gap-timer reference. -/
def beginFlushed (speed : U32) : State → State :=
  flushWait fun s =>
    toIdle (now { emit [.openPort speed] s with speed := speed, isOpen := true, lastDone := reading s })

/-- BEGIN speed (R170): flush, then open. The flush blocks (R64): if the transport does not report it complete, BEGIN
waits in it. -/
def execBegin (speed : U32) (s : State) : Host.Outcome State Fault Refusal :=
  hostCommand (fun s => beginFlushed speed { emit [.flush] s with pos := .beginFlush speed }) s

/-- END (R171): close the transport; END does not flush. -/
def execEnd (s : State) : Host.Outcome State Fault Refusal :=
  hostCommand (fun s => { emit [.closePort] s with isOpen := false }) s

/-- SETGAP g (R172): MIN_GAP is g[TIME_W-1:0]. -/
def execSetgap (g : U32) (s : State) : Host.Outcome State Fault Refusal :=
  hostCommand (fun s => { s with minGap := tick s.params g }) s

/-- RENDER pixelCount (R173): refused while OPEN = 0; otherwise the gap wait begins. The render goes on in the
sequencer's steps (R36) until PHASE is IDLE again. No rule reads pixelCount (R151). -/
def execRender (_pixelCount : U16) (s : State) : Host.Outcome State Fault Refusal :=
  hostCommand (fun s => if s.isOpen then { s with phase := .gapWait } else raise .closed s) s

/-- One poll of GapWait (R174): read the time; with the gap elapsed ENCODE starts, otherwise yield and poll again. -/
def gapPoll (s : State) : State :=
  if gapPassed s (reading s) then { now s with phase := .encode, pos := .enter }
  else window (fun s => s) (emit [.yield] (now s))

/-- The start of the post-sequence (R177): yield, then call the flush. -/
def postYield (s : State) : State :=
  window (fun s => { emit [.flush] s with pos := .postFlush }) (emit [.yield] s)

/-- The end of the post-sequence (R177): with the flush complete, record the completion time; the render ends. -/
def postFlushed : State → State :=
  flushWait fun s => toIdle { now s with lastDone := reading s }

/-- The post-sequence's next step (R177). -/
def postStep (s : State) : State :=
  if s.pos = .postFlush then postFlushed s else postYield s

end Sys2Proof.Machine
end

