-- ==== Sys2Proof/Machine/Encoder.lean ====
section
/-! DEFINITION. The frame encoder: the meanings of the wire-record rows (R137 to R140, R146) and the steps they share
(R134 to R136, R141 to R144). A record without a callback is written in one step. A single-wire or clocked-data record
has calls in it, of the notifier and of the colour source; its meaning runs to the next call, and run again at the
position the state holds it goes on from there, until the record's checksum is written. -/

namespace Sys2Proof.Machine

/-- The seed, the header and the descriptor of a record (R134, R135, R136). -/
def openRecord (id tag : Byte) (desc : List Byte) (s : State) : State :=
  emitC desc (emitC (header s.params.magic id tag) { s with acc := seed })

/-- The end of a channel's pass: the trailing checksum, then the next entry (R144, R132); the pixel loop is over
(R39). -/
def closeRecord (s : State) : State :=
  { dropPixI (emitChecksum s) with chIdx := s.chIdx + 1, pos := .visit }

/-- A record with pixels: the working values of R137 or R138, the header and descriptor, then the notifier is called
with the descriptor bytes as written (R141). PIX_I is set to 0 here, before the pixel loop in which alone R39 gives it a
value: DESIGN CHOICE, log entry 3. -/
def startPixels (id tag : Byte) (desc : List Byte) (elem : Byte) (pix : U16) (dflt : Quad) (s : State) : State :=
  emit [.switch id tag desc]
    { openRecord id tag desc s with effElem := elem, effPix := pix, dflt := dflt, pixI := 0, pos := .notify }

/-- A record without pixels (R139, R140): EFF_PIX is 0, and the checksum follows the descriptor at once (R82). -/
def writeBare (id tag : Byte) (desc : List Byte) (s : State) : State :=
  closeRecord { openRecord id tag desc s with effPix := 0 }

/-- START of the channel CH_IDX is at (R29, R132). -/
def startIndex (s : State) : Nat :=
  match s.channels[s.chIdx]? with
  | some ch => ch.start.toNat
  | none => 0

/-- The exact index of the pixel PIX_I is at: START + PIX_I (R142). -/
def pixelIndex (s : State) : Nat := startIndex s + s.pixI.toNat

/-- The first half of a pixel step (R142, R195): the REF_INDEX test, the REF_ELEM test, PBUF set to the default, and
the call of the colour source. With every pixel written, the record ends. -/
def pixelAsk (s : State) : State :=
  if s.pixI < s.effPix then
    if 0xFFFFFFFF < pixelIndex s then raise .index s
    else if 4 < s.effElem.toNat then raise .elem s
    else
      let idx := BitVec.ofNat 32 (pixelIndex s)
      { emit [.color idx] s with pbuf := s.dflt, pos := .color idx }
  else closeRecord s

/-- The byte-enable merge (R143): a set enable takes the answer's byte, a clear one keeps the buffer's. -/
def mergePixel (buf : Quad) (a : ColorAnswer) : Quad :=
  { b0 := if a.en.getLsbD 0 then a.data.b0 else buf.b0
    b1 := if a.en.getLsbD 1 then a.data.b1 else buf.b1
    b2 := if a.en.getLsbD 2 then a.data.b2 else buf.b2
    b3 := if a.en.getLsbD 3 then a.data.b3 else buf.b3 }

/-- The second half of a pixel step (R142): merge the answer into PBUF, write exactly EFF_ELEM bytes of it. -/
def pixelFill (a : ColorAnswer) (s : State) : State :=
  let buf := mergePixel s.pbuf a
  { emitC (buf.toList.take s.effElem.toNat) s with pbuf := buf, pixI := s.pixI + 1, pos := .pixel }

/-- A record with pixels, at the position the state holds: in the notifier's call, at the pixel loop, in the colour
source's call, or at its start. -/
def pixelRecord (start : State → State) (s : State) : State :=
  match s.pos with
  | .notify => notifyWait (fun s => { s with pos := .pixel }) s
  | .pixel => pixelAsk s
  | .color _ => colorWait pixelFill s
  | .rest | .beginFlush _ | .enter | .visit | .postYield | .postFlush => start s

/-- The sequencer runs a record; after a refusal nothing has a meaning (R193). -/
def sequencerStep (body : State → State) (s : State) : Host.Outcome State Fault Refusal :=
  unlessRefused (fun s => .next (body s)) s

/-- REC_SINGLE_WIRE (R137): EFF_ELEM and EFF_PIX from the channel, default all zero. -/
def execRecSingleWire (id elem co : Byte) (pix : U16) (s : State) : Host.Outcome State Fault Refusal :=
  sequencerStep (pixelRecord (startPixels id tagSingleWire (descSingleWire elem co pix) elem pix Quad.zero)) s

/-- REC_CLOCKED_DATA (R138): four bytes per pixel whatever ELEM is, default 00 00 00 FF. -/
def execRecClockedData (id : Byte) (freq : U32) (co : BitVec 6) (pix : U16) (s : State) :
    Host.Outcome State Fault Refusal :=
  sequencerStep (pixelRecord
    (startPixels id tagClockedData (descClockedData freq co pix) 4 pix ⟨0, 0, 0, 0xFF⟩)) s

/-- REC_CLOCK_ONLY (R139): no pixel and no notification. -/
def execRecClockOnly (id : Byte) (freq : U32) (s : State) : Host.Outcome State Fault Refusal :=
  sequencerStep (writeBare id tagClockOnly (descClockOnly freq)) s

/-- REC_UNRECOGNIZED (R140): the header and the checksum. -/
def execRecUnrecognized (id tag : Byte) (s : State) : Host.Outcome State Fault Refusal :=
  sequencerStep (writeBare id tag []) s

/-- REC_TERMINATOR (R146): header, checksum, and ENCODE is DONE (R147): the post-sequence begins (R173). -/
def execRecTerminator (s : State) : Host.Outcome State Fault Refusal :=
  sequencerStep (fun s =>
    { dropWorking (emitChecksum (openRecord idTerminator tagTerminator [] s)) with phase := .post, pos := .postYield }) s

end Sys2Proof.Machine
end

