-- ==== Sys2Proof/Machine/Registry.lean ====
section
/-! DEFINITION. The channel registry commands (R120, R121). -/

namespace Sys2Proof.Machine

/-- CFG n, entries (R120): with n above MAX_CH a refusal; otherwise the whole list is replaced in one transaction and
no field is checked (R122). -/
def execCfg (entries : List Channel) (s : State) : Host.Outcome State Fault Refusal :=
  hostCommand (fun s =>
    if s.params.maxCh < entries.length then raise .maxCh s
    else { s with channels := entries, configured := true }) s

/-- GETCFG's response (R121): CONFIGURED, NCH, then the entries as stored. -/
def registryBytes (s : State) : List Byte :=
  [if s.configured then 1#8 else 0#8, BitVec.ofNat 8 s.nch] ++ encodeEntries s.channels

/-- GETCFG (R121): no state changes. -/
def execGetcfg (s : State) : Host.Outcome State Fault Refusal :=
  hostCommand (fun s => respond (registryBytes s) s) s

end Sys2Proof.Machine
end

