-- ==== Sys2Proof/Machine/Unassigned.lean ====
section
/-! DEFINITION. The transactions that are no command: an unassigned opcode (R87) and a wrong length (R72, R192). -/

namespace Sys2Proof.Machine

/-- UNASSIGNED (R87, R195): the opcode test comes before every other, BUSY too. -/
def execUnassigned (_op : Byte) (_rest : List Byte) (s : State) : Host.Outcome State Fault Refusal :=
  unlessRefused (fun s => .next (raise .opcode s)) s

/-- A transaction of an assigned opcode whose length is wrong: REF_BUSY first, then for a CFG with a count byte
REF_MAXCH, then REF_LENGTH (R195, R120). A transaction without a byte is refused with REF_LENGTH (log entry 7). -/
def execBadLength (e : DecodeError) (s : State) : Host.Outcome State Fault Refusal :=
  hostCommand (fun s =>
    match e with
    | .noOpcode | .length _ => raise .length s
    | .cfgLength n => if s.params.maxCh < n.toNat then raise .maxCh s else raise .length s) s

end Sys2Proof.Machine
end

