-- ==== Sys2Proof/Machine/Dispatch.lean ====
section
/-! DEFINITION. The dispatch: one arm per row of spec/opcode_table.json. -/

namespace Sys2Proof.Machine

def exec (i : Instr) (s : State) : Host.Outcome State Fault Refusal :=
  match i with
  | .cfg entries => Sys2Proof.Machine.execCfg entries s
  | .getcfg => Sys2Proof.Machine.execGetcfg s
  | .setgap g => Sys2Proof.Machine.execSetgap g s
  | .beginTx speed => Sys2Proof.Machine.execBegin speed s
  | .endTx => Sys2Proof.Machine.execEnd s
  | .render pixelCount => Sys2Proof.Machine.execRender pixelCount s
  | .crcinit => Sys2Proof.Machine.execCrcinit s
  | .crcupd b => Sys2Proof.Machine.execCrcupd b s
  | .crcload v => Sys2Proof.Machine.execCrcload v s
  | .crcread => Sys2Proof.Machine.execCrcread s
  | .crcfinal => Sys2Proof.Machine.execCrcfinal s
  | .recSingleWire id elem co pix => Sys2Proof.Machine.execRecSingleWire id elem co pix s
  | .recTerminator => Sys2Proof.Machine.execRecTerminator s
  | .recClockedData id freq co pix => Sys2Proof.Machine.execRecClockedData id freq co pix s
  | .recClockOnly id freq => Sys2Proof.Machine.execRecClockOnly id freq s
  | .recUnrecognized id tag => Sys2Proof.Machine.execRecUnrecognized id tag s
  | .unassigned op rest => Sys2Proof.Machine.execUnassigned op rest s

end Sys2Proof.Machine
end

