-- ==== Sys2Proof/Machine/Sequencer.lean ====
section
/-! DEFINITION. The sequencer (R36): where the next instruction comes from. In IDLE it is the host's next transaction
(R70); in ENCODE it is the record of the channel CH_IDX is at, and after the last channel the terminator (R130). -/

namespace Sys2Proof.Machine

/-- Run one transaction of the host port: decode it and execute it, or refuse its length. -/
def runTransaction (c : List Byte) (s : State) : Host.Outcome State Fault Refusal :=
  match decode c with
  | .ok i => exec i s
  | .error e => execBadLength e s

/-- The host's next transaction leaves the port's queue; the trace shows it as issued (R13, R70). -/
def accept (c : List Byte) (rest : List (List Byte)) (s : State) : State :=
  emit [.command c] { s with env := { s.env with host := rest } }

/-- IDLE: a BEGIN that waits for its flush goes on; otherwise the host's next transaction, or nothing (R221). -/
def idleStep (s : State) : Host.Outcome State Fault Refusal :=
  match s.pos with
  | .beginFlush speed => .next (beginFlushed speed s)
  | .rest | .enter | .visit | .notify | .pixel | .color _ | .postYield | .postFlush =>
    match s.env.host with
    | [] => .next s
    | c :: rest => runTransaction c (accept c rest s)

/-- The first line of ENCODE (R131): a no-op when no list was ever configured; otherwise the pass of entry 0. -/
def encodeEnter (s : State) : State :=
  if s.configured then { s with chIdx := 0, pos := .visit } else toIdle s

/-- The record of CH_IDX (R132, R136): `none` is the abort, a zero ELEM at the start of a channel's pass (R133). -/
def fetchRecord (s : State) : Option Instr :=
  match s.channels[s.chIdx]? with
  | none => some .recTerminator
  | some ch => if s.pos = .visit ∧ ch.elem = 0 then none else some (recordOf ch)

/-- ENCODE (R130): NOOP, ABORT (R133, R147), or the next step of the record in hand. -/
def encodeStep (s : State) : Host.Outcome State Fault Refusal :=
  if s.pos = .enter then .next (encodeEnter s)
  else
    match fetchRecord s with
    | none => .next (toIdle (dropWorking s))
    | some i => exec i s

/-- One step without a reset, by PHASE (R36, R173). In PHASE REFUSED no step has a meaning (R193). -/
def advance (s : State) : Host.Outcome State Fault Refusal :=
  match s.phase with
  | .refused => .refused .afterRefusal
  | .idle => idleStep s
  | .gapWait => .next (gapPoll s)
  | .encode => encodeStep s
  | .post => .next (postStep s)

/-- The state whose samples of the reset input still to come are `rest`. -/
def withResets (rest : List (Option Nat)) (s : State) : State := { s with env := { s.env with resetLine := rest } }

/-- The samples after the next reset; `none` where no reset comes. -/
def afterNextReset : List (Option Nat) → Option (List (Option Nat))
  | [] => none
  | none :: rest => afterNextReset rest
  | some _ :: rest => some rest

/-- A reset that comes inside the step from s to t, when k of its events have happened: the rest of them never happen
("nothing further written", R220). What the step has taken from the environment stays taken (log entry 13). -/
def resetDuring (k : Nat) (s t : State) : State :=
  powerOn { s with draws := t.draws, env := t.env, trace := t.trace.take (s.trace.length + k) }

/-- The reset input is sampled first (R220). A reset starts a new run with the mark clear, from PHASE REFUSED too (R42;
90_conflicts.md C10); the steps of a refused instance before it have no meaning (R193; log entry 4). -/
def sampleReset (s : State) : Host.Outcome State Fault Refusal :=
  if s.phase = .refused then
    match afterNextReset s.env.resetLine with
    | none => advance s
    | some rest => .next (powerOn (withResets rest s))
  else
    match s.env.resetLine with
    | [] => advance s
    | none :: rest => advance (withResets rest s)
    | some 0 :: rest => .next (powerOn (withResets rest s))
    | some (k + 1) :: rest =>
      match advance (withResets rest s) with
      | .next t => .next (resetDuring (k + 1) s t)
      | .fault r => .fault r
      | .refused r => .refused r

/-- The registry entry whose record a record row is; the fields the record does not carry are 0, and ELEM of a record
without an element count is 4 (any value but 0 gives the same record, R138 to R140). -/
def channelOf : Instr → List Channel
  | .recSingleWire id elem co pix => [⟨id, tagSingleWire, elem, co, pix, 0, 0⟩]
  | .recClockedData id freq co pix => [⟨id, tagClockedData, 4, co.setWidth 8, pix, 0, freq⟩]
  | .recClockOnly id freq => [⟨id, tagClockOnly, 4, 0, 0, 0, freq⟩]
  | .recUnrecognized id tag => [⟨id, tag, 4, 0, 0, 0, 0⟩]
  | .recTerminator => []
  | .cfg _ | .getcfg | .setgap _ | .beginTx _ | .endTx | .render _ => []
  | .crcinit | .crcupd _ | .crcload _ | .crcread | .crcfinal => []
  | .unassigned .. => []

/-- Make a transaction the next one the step takes up: PBFE is idle and the transaction heads the port's queue. -/
def placeTransaction (c : List Byte) (s : State) : State :=
  { s with
    phase := .idle, pos := .rest, refused := none
    env := { s.env with host := c :: s.env.host, resetLine := [] } }

/-- Make a record the next one the sequencer runs: ENCODE is at the start of its pass, and the registry is its entry. -/
def placeRecord (i : Instr) (s : State) : State :=
  { s with
    phase := .encode, pos := .visit, refused := none
    channels := channelOf i, configured := true, chIdx := 0
    env := { s.env with resetLine := [] } }

end Sys2Proof.Machine
end

