-- ==== Sys2Proof/Machine/Step.lean ====
section
/-! DEFINITION. One step of the machine, and where a word of the opcode table is placed so that the next step runs it. -/

namespace Sys2Proof.Machine

/-- One step: the reset input is sampled, then the sequencer moves (Machine/Sequencer.lean). -/
def step (s : State) : Host.Outcome State Fault Refusal := sampleReset s

/-- The state with a word of the opcode table placed where the next step fetches: a host transaction at the head of the
port's queue, or, for a record row, the registry entry of the record with ENCODE at its pass (log entries 14, 15). -/
def State.withFetchWord (s : State) (nbits w : Nat) : State :=
  match tableRecord s.params.magic nbits w with
  | some i => placeRecord i s
  | none => placeTransaction (tableBytes nbits w) s

end Sys2Proof.Machine
end

