-- ==== Sys2Proof/Machine/Assembler.lean ====
section
/-! DEFINITION. The notation of the spec's programs (R88) on its tokens, and the pseudo-instructions (R89). Numbers and
mnemonics are tokens here: how a number is spelled is notation only (D30). -/

namespace Sys2Proof.Machine

/-- An operand of a command line: a number, or one brace group of numbers. -/
inductive Operand where
  | num (v : Nat)
  | group (fields : List Nat)
  deriving DecidableEq, Repr

/-- The fields of a brace group as an entry. A number that does not fit its field is no operand. -/
def channelOfNumbers (i t e c p s f : Nat) : Option Channel :=
  if i < 256 ∧ t < 256 ∧ e < 256 ∧ c < 256 ∧ p < 65536 ∧ s < 4294967296 ∧ f < 4294967296 then
    some { id := .ofNat 8 i, typ := .ofNat 8 t, elem := .ofNat 8 e, co := .ofNat 8 c,
           pix := .ofNat 16 p, start := .ofNat 32 s, freq := .ofNat 32 f }
  else none

/-- A brace group of CFG: ID, TYPE, ELEM, CO, PIX, START, FREQ (R88). FREQ may be omitted and is then 0. -/
def channelOfFields : List Nat → Option Channel
  | [i, t, e, c, p, s] => channelOfNumbers i t e c p s 0
  | [i, t, e, c, p, s, f] => channelOfNumbers i t e c p s f
  | _ => none

/-- The brace groups of a CFG line. -/
def channelsOfOperands : List Operand → Option (List Channel)
  | [] => some []
  | .group fields :: rest =>
    match channelOfFields fields, channelsOfOperands rest with
    | some ch, some chs => some (ch :: chs)
    | _, _ => none
  | .num _ :: _ => none

/-- One command line: the mnemonic and its operands (R88). A CFG without a brace group is an empty list. -/
def assemble (mnemonic : String) (ops : List Operand) : Option Instr :=
  match mnemonic, ops with
  | "CFG", _ => (channelsOfOperands ops).bind fun chs => if chs.length ≤ 255 then some (.cfg chs) else none
  | "GETCFG", [] => some .getcfg
  | "SETGAP", [.num g] => if g < 4294967296 then some (.setgap (.ofNat 32 g)) else none
  | "BEGIN", [.num v] => if v < 4294967296 then some (.beginTx (.ofNat 32 v)) else none
  | "END", [] => some .endTx
  | "RENDER", [.num n] => if n < 65536 then some (.render (.ofNat 16 n)) else none
  | "CRCINIT", [] => some .crcinit
  | "CRCUPD", [.num b] => if b < 256 then some (.crcupd (.ofNat 8 b)) else none
  | "CRCLOAD", [.num v] => if v < 4294967296 then some (.crcload (.ofNat 32 v)) else none
  | "CRCREAD", [] => some .crcread
  | "CRCFINAL", [] => some .crcfinal
  | _, _ => none

/-- CRCBUF b0, ..., bk (R89). -/
def crcbuf (bs : List Byte) : List Instr := bs.map .crcupd

/-- CHECKSUM b0, ..., bk (R89). -/
def checksum (bs : List Byte) : List Instr := .crcinit :: crcbuf bs ++ [.crcfinal]

/-- CRCSTR "text" (R89): the ASCII codes of the characters, in order. -/
def crcstr (text : String) : List Instr := crcbuf (text.toList.map fun c => .ofNat 8 c.toNat)

end Sys2Proof.Machine
end

