-- ==== Sys2Proof/Machine/Wire.lean ====
section
/-! DEFINITION. The wire records as the spec writes them in closed form (R75 to R85), without the sequencer: what a
record, a frame and their events are for given colour answers. The machine does not use this file; statements hold the
machine against it. -/

namespace Sys2Proof.Machine

/-- The byte an event writes to the transport. -/
def writtenByte : Event → Option Byte
  | .write b => some b
  | .flush | .openPort _ | .closePort | .yield | .time _ | .color _ | .switch .. | .command _ | .response _ => none

/-- The bytes on the wire: the `Write` events in order (R13). -/
def wire (es : List Event) : List Byte := es.filterMap writtenByte

/-- Whether a channel is notified and has pixels: single-wire or clocked-data (R141, R139, R140). -/
def hasPixels (ch : Channel) : Bool := ch.typ == tagSingleWire || ch.typ == tagClockedData

/-- EFF_ELEM of a channel with pixels (R40). -/
def effElemOf (ch : Channel) : Byte := if ch.typ = tagSingleWire then ch.elem else 4

/-- EFF_PIX of a channel (R40). -/
def effPixOf (ch : Channel) : U16 := if hasPixels ch then ch.pix else 0

/-- DEFAULT of a channel with pixels (R40, R143). -/
def defaultOf (ch : Channel) : Quad := if ch.typ = tagClockedData then ⟨0, 0, 0, 0xFF⟩ else Quad.zero

/-- The descriptor of a channel (R77 to R80). -/
def descriptorOf (ch : Channel) : List Byte :=
  if ch.typ = tagSingleWire then descSingleWire ch.elem ch.co ch.pix
  else if ch.typ = tagClockedData then descClockedData ch.freq (co3Bits ch.co) ch.pix
  else if ch.typ = tagClockOnly then descClockOnly ch.freq
  else []

/-- The bytes one pixel writes for one colour answer (R81, R142, R143). -/
def pixelBytes (ch : Channel) (a : ColorAnswer) : List Byte :=
  (mergePixel (defaultOf ch) a).toList.take (effElemOf ch).toNat

/-- A record before its checksum: header, descriptor, payload (R75 to R81). -/
def recordBody (magic : Quad) (ch : Channel) (answers : List ColorAnswer) : List Byte :=
  header magic ch.id ch.typ ++ descriptorOf ch ++ answers.flatMap (pixelBytes ch)

/-- A whole record: the body and its trailing checksum (R82). -/
def recordBytes (magic : Quad) (ch : Channel) (answers : List ColorAnswer) : List Byte :=
  recordBody magic ch answers ++ le4 (crc32 (recordBody magic ch answers))

/-- The terminator record (R83). -/
def terminatorBytes (magic : Quad) : List Byte :=
  header magic idTerminator tagTerminator ++ le4 (crc32 (header magic idTerminator tagTerminator))

/-- A record's length (R84). -/
def recordLength (ch : Channel) : Nat :=
  if ch.typ = tagSingleWire then 14 + ch.elem.toNat * ch.pix.toNat
  else if ch.typ = tagClockedData then 17 + 4 * ch.pix.toNat
  else if ch.typ = tagClockOnly then 14
  else 10

/-- The events of the pixels from PIX_I = k on: `Color(idx)`, then the pixel's writes (R142, R63). -/
def pixelEvents (ch : Channel) : Nat → List ColorAnswer → List Event
  | _, [] => []
  | k, a :: rest =>
    .color (BitVec.ofNat 32 (ch.start.toNat + k)) :: (pixelBytes ch a).map .write ++ pixelEvents ch (k + 1) rest

/-- The events of a record (R130, R63): header and descriptor, the notification, the pixels, the checksum. -/
def recordEvents (magic : Quad) (ch : Channel) (answers : List ColorAnswer) : List Event :=
  (header magic ch.id ch.typ ++ descriptorOf ch).map .write
    ++ (if hasPixels ch then [.switch ch.id ch.typ (descriptorOf ch)] else [])
    ++ pixelEvents ch 0 answers
    ++ (le4 (crc32 (recordBody magic ch answers))).map .write

/-- The events of the records of a list of channels (R85): each takes as many colour answers as it has pixels. -/
def recordsEvents (magic : Quad) : List Channel → List ColorAnswer → List Event
  | [], _ => []
  | ch :: chs, answers =>
    recordEvents magic ch (answers.take (effPixOf ch).toNat)
      ++ recordsEvents magic chs (answers.drop (effPixOf ch).toNat)

/-- The events of a completed ENCODE (R85, R130): the channels' records, then the terminator. -/
def frameEvents (magic : Quad) (chs : List Channel) (answers : List ColorAnswer) : List Event :=
  recordsEvents magic chs answers ++ (terminatorBytes magic).map .write

/-- How many pixels the channels of a list ask for. -/
def totalPixels (chs : List Channel) : Nat := (chs.map fun ch => (effPixOf ch).toNat).sum

/-- How many notifications the channels of a list cause. -/
def totalSwitches (chs : List Channel) : Nat := (chs.filter hasPixels).length

end Sys2Proof.Machine
end

