-- ==== Sys2Proof/Safety.lean ====
section
/-! DEFINITION. The terms the claims use: the environments that keep out of a command's way, the channels a send gets
through, and the invariant of the machine's states. -/

namespace Sys2Proof.Machine

/-- n steps of the machine, stopping at the first refusal: Host/Core.lean's run for this machine (`core_run`). -/
def run : Nat → State → Host.Outcome State Fault Refusal
  | 0, s => .next s
  | n + 1, s =>
    match step s with
    | .next t => run n t
    | .fault r => .fault r
    | .refused r => .refused r

/-- No other task issues a command during a command, and the reset input stays quiet (R205, R226, R227). -/
structure State.Quiet (s : State) : Prop where
  noIntruders : s.env.intruders = []
  noReset : s.env.resetLine = []

/-- A channel whose pass neither aborts (R133) nor is refused (R142): ELEM is not 0, and if it has a pixel, EFF_ELEM is
at most 4 and its last index is at most 2^32 - 1. -/
structure Sendable (ch : Channel) : Prop where
  enabled : ch.elem ≠ 0
  elemFits : effPixOf ch ≠ 0 → (effElemOf ch).toNat ≤ 4
  indexFits : effPixOf ch ≠ 0 → ch.start.toNat + (effPixOf ch).toNat ≤ 2 ^ 32

/-- The positions inside a record with pixels. -/
def Position.inRecord : Position → Bool
  | .notify | .pixel | .color _ => true
  | .rest | .beginFlush _ | .enter | .visit | .postYield | .postFlush => false

/-- The positions of an idle machine: at rest, or in the flush of a BEGIN (log entry 6). -/
def Position.inIdle : Position → Bool
  | .rest | .beginFlush _ => true
  | .enter | .visit | .notify | .pixel | .color _ | .postYield | .postFlush => false

/-- Which positions a phase can hold (R36). -/
def Position.fits (phase : Phase) (pos : Position) : Bool :=
  match phase with
  | .idle => pos.inIdle
  | .gapWait => decide (pos = .rest)
  | .encode => decide (pos = .enter) || decide (pos = .visit) || pos.inRecord
  | .post => decide (pos = .postYield) || decide (pos = .postFlush)
  | .refused => true

/-- Inside a record with pixels, of channel ch: the working registers are the channel's (R40), PIX_I is at most EFF_PIX
(R39), and ACC is the checksum state over exactly the bytes this record has put on the wire: its header, its
descriptor and PIX_I pixels (R21, R82, R145). -/
structure InRecord (s : State) (ch : Channel) : Prop where
  current : s.channels[s.chIdx]? = some ch
  enabled : ch.elem ≠ 0
  pixels : hasPixels ch
  effElem : s.effElem = effElemOf ch
  effPix : s.effPix = ch.pix
  dflt : s.dflt = defaultOf ch
  pixI : s.pixI ≤ s.effPix
  checksum : ∃ before payload,
    wire s.trace = before ++ (header s.params.magic ch.id ch.typ ++ descriptorOf ch ++ payload) ∧
    payload.length = (effElemOf ch).toNat * s.pixI.toNat ∧
    s.acc = upd seed (header s.params.magic ch.id ch.typ ++ descriptorOf ch ++ payload)

/-- In the colour source's call (R142): a pixel is due, the REF_ELEM test has passed, the index asked is START + PIX_I,
and PBUF holds the default. -/
structure InColorCall (s : State) (idx : U32) : Prop where
  due : s.pixI < s.effPix
  elemFits : s.effElem.toNat ≤ 4
  index : idx.toNat = pixelIndex s
  buffer : s.pbuf = s.dflt

/-- The invariant of the machine's states: what holds after reset and what every step keeps. -/
structure State.Inv (s : State) : Prop where
  /-- NCH is at most MAX_CH (R31). -/
  nchBound : s.nch ≤ s.params.maxCh
  /-- With CONFIGURED = 0 no entry exists (R22, R31). -/
  unconfigured : s.configured = false → s.channels = []
  /-- LAST_DONE has TIME_W bits (R34). -/
  lastDoneWidth : s.lastDone.toNat < 2 ^ s.params.timeW
  /-- MIN_GAP has TIME_W bits (R35). -/
  minGapWidth : s.minGap.toNat < 2 ^ s.params.timeW
  /-- The REFUSED mark is set exactly in PHASE REFUSED (R42, R193). -/
  refusedMark : s.phase = .refused ↔ s.refused.isSome
  /-- A render runs only with OPEN = 1 (R32, R173). -/
  busyOpen : s.busy → s.isOpen
  /-- The position belongs to the phase (R36). -/
  position : Position.fits s.phase s.pos
  /-- Past its first line, ENCODE runs with CONFIGURED = 1 and CH_IDX at most NCH (R131, R38). -/
  encoding : s.phase = .encode → s.pos ≠ .enter → s.configured ∧ s.chIdx ≤ s.nch
  /-- Inside a record with pixels. -/
  record : s.phase = .encode → s.pos.inRecord → ∃ ch, InRecord s ch
  /-- In the colour source's call. -/
  colorCall : s.phase = .encode → ∀ idx, s.pos = .color idx → InColorCall s idx

end Sys2Proof.Machine
end

