-- ==== Sys2Proof/Certificates/Slice0/Obligations.lean ====
section
/-! DEFINITION. The statements for the provers. Each is about the machine of Sys2Proof/Machine. -/

open Sys2Proof Sys2Proof.Machine

/-! ## The checksum engine and the CRC commands (spec/40_crc.md) -/

/-- R107: CRCINIT sets ACC to the seed and changes nothing else. -/
def Obligations.CrcinitSetsSeed : Prop :=
  ∀ s : State, s.ready → exec .crcinit s = .next { s with acc := 0xFFFFFFFF }

/-- R108: CRCUPD feeds one byte to ACC, low nibble first (R102), and changes nothing else. -/
def Obligations.CrcupdFeedsOneByte : Prop :=
  ∀ (b : Byte) (s : State), s.ready →
    exec (.crcupd b) s = .next { s with acc := nib (nib s.acc (b.extractLsb' 0 4)) (b.extractLsb' 4 4) }

/-- R109: CRCLOAD sets ACC and changes nothing else. -/
def Obligations.CrcloadSetsAccumulator : Prop :=
  ∀ (v : U32) (s : State), s.ready → exec (.crcload v) s = .next { s with acc := v }

/-- R110: CRCREAD returns le_4(ACC); no register changes. -/
def Obligations.CrcreadReturnsRawAccumulator : Prop :=
  ∀ s : State, s.ready → exec .crcread s = .next { s with trace := s.trace ++ [.response (le4 s.acc)] }

/-- R111: CRCFINAL returns le_4(ACC ^ 0xFFFFFFFF); no register changes. -/
def Obligations.CrcfinalReturnsFinalized : Prop :=
  ∀ s : State, s.ready →
    exec .crcfinal s = .next { s with trace := s.trace ++ [.response (le4 (s.acc ^^^ 0xFFFFFFFF))] }

/-- R100: the sixteen entries of the table. -/
def Obligations.CrcTableEntries : Prop :=
  (List.range 16).map (fun i => crcTable (BitVec.ofNat 4 i)) =
    [0x00000000#32, 0x1DB71064#32, 0x3B6E20C8#32, 0x26D930AC#32, 0x76DC4190#32, 0x6B6B51F4#32, 0x4DB26158#32,
     0x5005713C#32, 0xEDB88320#32, 0xF00F9344#32, 0xD6D6A3E8#32, 0xCB61B38C#32, 0x9B64C2B0#32, 0x86D3D2D4#32,
     0xA00AE278#32, 0xBDBDF21C#32]

/-- R105: feeding two buffers one after the other is feeding their concatenation. -/
def Obligations.ChecksumStreamsLikeOneBuffer : Prop :=
  ∀ (st : U32) (a b : List Byte), upd (upd st a) b = upd st (a ++ b)

/-- The nibble-table engine is the reflected shift register: one byte is eight shift steps of R100's loop from the
state exclusive-ored with the byte. -/
def Obligations.TableStepIsEightShiftSteps : Prop :=
  ∀ (st : U32) (b : Byte), updByte st b = shiftStep^[8] (st ^^^ b.setWidth 32)

/-! ## The registry (spec/41_registry.md, 30_encoding.md) -/

/-- R120: with n at most MAX_CH, CFG replaces the whole list and sets CONFIGURED; nothing else changes, no field is
checked, and OPEN does not matter. -/
def Obligations.CfgReplacesRegistry : Prop :=
  ∀ (entries : List Channel) (s : State), s.ready → entries.length ≤ s.params.maxCh →
    exec (.cfg entries) s = .next { s with channels := entries, configured := true }

/-- R192 (REF_MAXCH), R120: with n above MAX_CH, CFG is refused; the registry keeps its contents. -/
def Obligations.CfgAboveMaxChIsRefused : Prop :=
  ∀ (entries : List Channel) (s : State), s.ready → s.params.maxCh < entries.length →
    exec (.cfg entries) s = .next { s with phase := .refused, refused := some .maxCh }

/-- R121: GETCFG returns CONFIGURED, NCH and the entries as stored, the reserved bytes 0; no register changes. -/
def Obligations.GetcfgReturnsStoredRegistry : Prop :=
  ∀ s : State, s.ready →
    exec .getcfg s = .next { s with
      trace := s.trace ++ [.response ([if s.configured then 1 else 0, BitVec.ofNat 8 s.channels.length] ++
        s.channels.flatMap fun ch =>
          [ch.id, ch.typ, ch.elem, ch.co] ++ le2 ch.pix ++ [0, 0] ++ le4 ch.start ++ le4 ch.freq)] }

/-- R73, R87: reading an entry's 16 bytes and writing the entry back gives the same bytes, with 0 in the reserved
bytes 6 and 7 whatever they were. -/
def Obligations.EntryKeepsAllButReservedBytes : Prop :=
  ∀ bs : List Byte, bs.length = 16 →
    encodeEntry (decodeEntry bs) = bs.take 6 ++ [0, 0] ++ bs.drop 8

/-- R74: co_pack places red in bits 1:0, green in 3:2, blue in 5:4 and white in 7:6; co_unpack reads them from there; co3
clears bits 7:6. The pair are each other's inverse. -/
def Obligations.ColourOrderPacking : Prop :=
  (∀ r g b w : BitVec 2, coPack r g b w =
    r.setWidth 8 ||| (g.setWidth 8 <<< 2) ||| (b.setWidth 8 <<< 4) ||| (w.setWidth 8 <<< 6)) ∧
  (∀ c : Byte, coUnpack c = (c.extractLsb' 0 2, c.extractLsb' 2 2, c.extractLsb' 4 2, c.extractLsb' 6 2)) ∧
  (∀ c : Byte, co3 c = c &&& 0x3F ∧ (co3Bits c).setWidth 8 = co3 c) ∧
  (∀ r g b w : BitVec 2, coUnpack (coPack r g b w) = (r, g, b, w)) ∧
  (∀ c : Byte, coPack (coUnpack c).1 (coUnpack c).2.1 (coUnpack c).2.2.1 (coUnpack c).2.2.2 = c)

/-! ## The driver (spec/43_driver.md) -/

/-- R170: with the flush reported complete, BEGIN flushes, opens the transport at the speed and captures the gap-timer
reference, whether or not the transport was open. -/
def Obligations.BeginOpensTransport : Prop :=
  ∀ (speed : U32) (n : Nat) (s : State), s.ready → s.env.intruders = [] → s.env.flushAcks = n + 1 →
    exec (.beginTx speed) s = .next { s with
      speed := speed
      isOpen := true
      lastDone := reading s
      env := { s.env with flushAcks := n, time := s.env.time.tail }
      trace := s.trace ++ [.flush, .openPort speed, .time (reading s)] }

/-- R64, D26: a BEGIN whose flush never completes hangs in it: `Flush` is the last event, and no step changes
anything. Where it waits is log entry 6. -/
def Obligations.BeginHangsInItsFlush : Prop :=
  ∀ (speed : U32) (s : State), s.ready → s.Quiet → s.env.flushAcks = 0 →
    let t : State := { s with pos := .beginFlush speed, trace := s.trace ++ [.flush] }
    exec (.beginTx speed) s = .next t ∧ ∀ n, run n t = .next t

/-- R171: END closes the transport without a flush; everything but OPEN is kept. -/
def Obligations.EndClosesTransport : Prop :=
  ∀ s : State, s.ready → exec .endTx s = .next { s with isOpen := false, trace := s.trace ++ [.closePort] }

/-- R172: SETGAP sets MIN_GAP to the low TIME_W bits of its operand and changes nothing else. -/
def Obligations.SetgapKeepsLowTimeBits : Prop :=
  ∀ (g : U32) (s : State), s.ready →
    exec (.setgap g) s = .next { s with minGap := BitVec.ofNat 32 (g.toNat % 2 ^ s.params.timeW) }

/-- R173: RENDER with OPEN = 1 starts the gap wait and changes nothing else. -/
def Obligations.RenderStartsGapWait : Prop :=
  ∀ (pixelCount : U16) (s : State), s.ready → s.isOpen →
    exec (.render pixelCount) s = .next { s with phase := .gapWait }

/-- R173, R192 (REF_CLOSED): RENDER with OPEN = 0 is refused, configured or not. -/
def Obligations.RenderWhileClosedIsRefused : Prop :=
  ∀ (pixelCount : U16) (s : State), s.ready → s.isOpen = false →
    exec (.render pixelCount) s = .next { s with phase := .refused, refused := some .closed }

/-- R174: a poll reads the time; with at least MIN_GAP ticks elapsed ENCODE starts, otherwise PBFE yields and stays in
the gap wait. -/
def Obligations.GapWaitPoll : Prop :=
  ∀ s : State, s.phase = .gapWait → s.Quiet →
    step s = .next
      (if s.minGap ≤ elapsed s.params (reading s) s.lastDone then
        { s with phase := .encode, pos := .enter, env := { s.env with time := s.env.time.tail }
                 trace := s.trace ++ [.time (reading s)] }
      else
        { s with env := { s.env with time := s.env.time.tail }
                 trace := s.trace ++ [.time (reading s), .yield] })

/-- R175: elapsed time is the difference modulo 2^TIME_W, for TIME_W-bit readings before and after a wrap. -/
def Obligations.ElapsedIsModularDifference : Prop :=
  ∀ (p : Params) (t l : U32), t.toNat < 2 ^ p.timeW → l.toNat < 2 ^ p.timeW →
    (elapsed p t l).toNat = if l.toNat ≤ t.toNat then t.toNat - l.toNat else t.toNat + 2 ^ p.timeW - l.toNat

/-- R178, R194: with the time input stuck short of MIN_GAP, the gap wait never passes: for every n, n steps poll and
yield n times and do nothing else. -/
def Obligations.StuckClockPollsForEver : Prop :=
  ∀ s : State, s.phase = .gapWait → s.Quiet → s.env.time = [] →
    elapsed s.params (reading s) s.lastDone < s.minGap →
    ∀ n, run n s = .next { s with
      trace := s.trace ++ (List.replicate n [Event.time (reading s), Event.yield]).flatten }

/-- R131, R173, R191: with CONFIGURED = 0 a render whose gap has passed is a no-op: one time reading, then IDLE, with
no write, no yield, no flush and LAST_DONE kept. -/
def Obligations.UnconfiguredRenderIsNoOp : Prop :=
  ∀ s : State, s.phase = .gapWait → s.Quiet → s.configured = false →
    s.minGap ≤ elapsed s.params (reading s) s.lastDone →
    run 2 s = .next { s with
      phase := .idle, pos := .rest, env := { s.env with time := s.env.time.tail }
      trace := s.trace ++ [.time (reading s)] }

/-- R177: the post-sequence yields, flushes, and with the flush complete records the completion time; the render ends. -/
def Obligations.PostSequenceRecordsCompletion : Prop :=
  ∀ (n : Nat) (s : State), s.phase = .post → s.pos = .postYield → s.Quiet → s.env.flushAcks = n + 1 →
    run 2 s = .next { s with
      phase := .idle, pos := .rest, lastDone := reading s
      env := { s.env with flushAcks := n, time := s.env.time.tail }
      trace := s.trace ++ [.yield, .flush, .time (reading s)] }

/-- R178, R194: a flush that never completes is a render that never ends: no step changes anything. -/
def Obligations.UncompletedFlushHangs : Prop :=
  ∀ s : State, s.phase = .post → s.pos = .postFlush → s.Quiet → s.env.flushAcks = 0 →
    ∀ n, run n s = .next s

/-! ## The encoder (spec/42_encoder.md, 30_encoding.md) -/

/-- R137 (R134, R141): the single-wire record's start: the six header bytes and the four descriptor bytes are written
and are what ACC holds from the seed; EFF_ELEM, EFF_PIX and DEFAULT are set; the notifier is called with the
descriptor; nothing else changes. That PIX_I is 0 before the pixel loop is the model's choice (log entry 3). -/
def Obligations.SingleWireRecordStarts : Prop :=
  ∀ (id elem co : Byte) (pix : U16) (s : State), s.phase ≠ .refused → s.pos.inRecord = false →
    let desc := [elem, co] ++ le2 pix
    let bytes := s.params.magic.toList ++ [id, 0x01] ++ desc
    exec (.recSingleWire id elem co pix) s = .next { s with
      acc := upd 0xFFFFFFFF bytes
      effElem := elem, effPix := pix, dflt := ⟨0, 0, 0, 0⟩, pixI := 0, pos := .notify
      trace := s.trace ++ bytes.map .write ++ [.switch id 0x01 desc] }

/-- R138 (R134, R141): the clocked-data record's start: frequency, colour order with bits 7:6 clear, pixel count;
EFF_ELEM is 4 and the default pixel 00 00 00 FF. That PIX_I is 0 before the pixel loop is the model's choice (log
entry 3). -/
def Obligations.ClockedDataRecordStarts : Prop :=
  ∀ (id : Byte) (freq : U32) (co : BitVec 6) (pix : U16) (s : State), s.phase ≠ .refused → s.pos.inRecord = false →
    let desc := le4 freq ++ [co.setWidth 8] ++ le2 pix
    let bytes := s.params.magic.toList ++ [id, 0x03] ++ desc
    exec (.recClockedData id freq co pix) s = .next { s with
      acc := upd 0xFFFFFFFF bytes
      effElem := 4, effPix := pix, dflt := ⟨0, 0, 0, 0xFF⟩, pixI := 0, pos := .notify
      trace := s.trace ++ bytes.map .write ++ [.switch id 0x03 desc] }

/-- R139, R150: the clock-only record is its 14 bytes: header (R75), frequency (R79), checksum (R82); no notification and
no colour call. PIX_I has no value after it (R39): that `dropPixI` makes it a free value is the model's choice (log
entry 3). -/
def Obligations.ClockOnlyRecordIsWritten : Prop :=
  ∀ (id : Byte) (freq : U32) (s : State), s.phase ≠ .refused →
    let bytes := s.params.magic.toList ++ [id, 0x04] ++ le4 freq
    exec (.recClockOnly id freq) s = .next { dropPixI s with
      acc := upd 0xFFFFFFFF bytes
      effPix := 0, chIdx := s.chIdx + 1, pos := .visit
      trace := s.trace ++ (bytes ++ le4 (upd 0xFFFFFFFF bytes ^^^ 0xFFFFFFFF)).map .write }

/-- R140: the record of an unrecognized type is its header and its checksum, ten bytes. PIX_I has no
value after it (R39): that `dropPixI` makes it a free value is the model's choice (log entry 3). -/
def Obligations.UnrecognizedRecordIsWritten : Prop :=
  ∀ (id tag : Byte) (s : State), s.phase ≠ .refused →
    let bytes := s.params.magic.toList ++ [id, tag]
    exec (.recUnrecognized id tag) s = .next { dropPixI s with
      acc := upd 0xFFFFFFFF bytes
      effPix := 0, chIdx := s.chIdx + 1, pos := .visit
      trace := s.trace ++ (bytes ++ le4 (upd 0xFFFFFFFF bytes ^^^ 0xFFFFFFFF)).map .write }

/-- R146, R83: the terminator is MAGIC, FF 02 and its checksum; ACC keeps the raw accumulator (R147) and the post-sequence
begins (R173). The working registers have no value after ENCODE (R147): that `dropWorking` makes them free values is the
model's choice (log entry 3). -/
def Obligations.TerminatorIsWritten : Prop :=
  ∀ s : State, s.phase ≠ .refused →
    let bytes := s.params.magic.toList ++ [0xFF, 0x02]
    exec .recTerminator s = .next { dropWorking s with
      acc := upd 0xFFFFFFFF bytes
      phase := .post, pos := .postYield
      trace := s.trace ++ (bytes ++ le4 (upd 0xFFFFFFFF bytes ^^^ 0xFFFFFFFF)).map .write }

/-- R141, R205: when the notifier returns, the pixel loop begins; until it returns, PBFE waits. -/
def Obligations.NotifierReturnStartsPixels : Prop :=
  ∀ (i : Instr) (s : State), i.isPixelRecord → s.phase ≠ .refused → s.pos = .notify → s.env.intruders = [] →
    exec i s = .next (match s.env.notifyAcks with
      | 0 => s
      | n + 1 => { s with pos := .pixel, env := { s.env with notifyAcks := n } })

/-- R142, R195: at a pixel the index is tested first, then EFF_ELEM, then the colour source is asked for START + PIX_I
with PBUF at the default. That the working registers keep their values in
PHASE REFUSED is the model's choice (log entry 3). -/
def Obligations.PixelTestsThenAsksColour : Prop :=
  ∀ (i : Instr) (ch : Channel) (s : State), i.isPixelRecord → s.phase ≠ .refused → s.pos = .pixel →
    s.channels[s.chIdx]? = some ch → s.pixI < s.effPix →
    let idx := ch.start.toNat + s.pixI.toNat
    exec i s = .next
      (if 0xFFFFFFFF < idx then { s with phase := .refused, refused := some .index }
      else if 4 < s.effElem.toNat then { s with phase := .refused, refused := some .elem }
      else { s with pbuf := s.dflt, pos := .color (BitVec.ofNat 32 idx)
                    trace := s.trace ++ [.color (BitVec.ofNat 32 idx)] })

/-- R142, R143, R152: when the colour source returns, each byte of PBUF is the answer's where its enable is set and the
default's where it is clear; the first EFF_ELEM of them are written, in buffer order whatever the colour order is. -/
def Obligations.ColourAnswerIsMergedAndWritten : Prop :=
  ∀ (i : Instr) (idx : U32) (a : ColorAnswer) (rest : List ColorAnswer) (s : State),
    i.isPixelRecord → s.phase ≠ .refused → s.pos = .color idx → s.env.intruders = [] → s.env.colors = a :: rest →
    s.pbuf = s.dflt →
    let buf : Quad :=
      ⟨if a.en[0] then a.data.b0 else s.dflt.b0, if a.en[1] then a.data.b1 else s.dflt.b1,
       if a.en[2] then a.data.b2 else s.dflt.b2, if a.en[3] then a.data.b3 else s.dflt.b3⟩
    let bytes := [buf.b0, buf.b1, buf.b2, buf.b3].take s.effElem.toNat
    exec i s = .next { s with
      acc := upd s.acc bytes
      pbuf := buf, pixI := s.pixI + 1, pos := .pixel
      env := { s.env with colors := rest }
      trace := s.trace ++ bytes.map .write }

/-- R144: with every pixel written, the finalized accumulator is written little-endian, ACC keeps the raw value, and the
next entry's pass begins. PIX_I has no value outside the pixel loop (R39): that it is a free
value is the model's choice (log entry 3). -/
def Obligations.RecordEndsWithChecksum : Prop :=
  ∀ (i : Instr) (s : State), i.isPixelRecord → s.phase ≠ .refused → s.pos = .pixel → s.effPix ≤ s.pixI →
    exec i s = .next { dropPixI s with
      chIdx := s.chIdx + 1, pos := .visit
      trace := s.trace ++ (le4 (s.acc ^^^ 0xFFFFFFFF)).map .write }

/-- R133: a zero ELEM at the start of a channel's pass ends the render at once, whatever the type: nothing is written,
and nothing but the sequencer's own registers changes (the working registers have no value after
ENCODE, R147; that they are free values is the model's choice, log entry 3). -/
def Obligations.ZeroElementAbortsSend : Prop :=
  ∀ (ch : Channel) (s : State), s.phase = .encode → s.pos = .visit → s.env.resetLine = [] →
    s.channels[s.chIdx]? = some ch → ch.elem = 0 →
    step s = .next { dropWorking s with phase := .idle, pos := .rest }

/-- R136, R132, R130: at an entry that does not abort, ENCODE runs the record its type selects; after the last entry it
runs the terminator. -/
def Obligations.EncodeRunsTheRecordOfTheType : Prop :=
  ∀ s : State, s.phase = .encode → s.pos ≠ .enter → s.env.resetLine = [] →
    (∀ ch, s.channels[s.chIdx]? = some ch → (s.pos = .visit → ch.elem ≠ 0) →
      step s = exec (match ch.typ.toNat with
        | 1 => .recSingleWire ch.id ch.elem ch.co ch.pix
        | 3 => .recClockedData ch.id ch.freq (ch.co.setWidth 6) ch.pix
        | 4 => .recClockOnly ch.id ch.freq
        | _ => .recUnrecognized ch.id ch.typ) s) ∧
    (s.channels[s.chIdx]? = none → step s = exec .recTerminator s)

/-! ## Refusals (spec/60_exceptions.md) -/

/-- R37, R192 (REF_BUSY), R195: any host command issued while BUSY = 1 is refused and nothing else changes; and a whole
transaction meets then the refusal that a command issued from inside the render meets, whatever its length. That the
transaction without a byte meets REF_BUSY is the model's choice (log entry 5); so is that the working registers keep
their values in PHASE REFUSED (log entry 3). -/
def Obligations.CommandWhileBusyIsRefused : Prop :=
  (∀ (i : Instr) (s : State), i.isCommand → s.busy →
    exec i s = .next { s with phase := .refused, refused := some .busy }) ∧
  (∀ (c : List Byte) (s : State), s.busy →
    runTransaction c s = .next { s with phase := .refused, refused := some (intrusionReason c) })

/-- R192 (REF_OPCODE), R195: an unassigned opcode is refused, busy or not, whatever bytes follow it. That the working registers keep their values in
PHASE REFUSED is the model's choice (log entry 3). -/
def Obligations.UnassignedOpcodeIsRefused : Prop :=
  ∀ (op : Byte) (rest : List Byte) (s : State), s.phase ≠ .refused →
    exec (.unassigned op rest) s = .next { s with phase := .refused, refused := some .opcode }

/-- R72, R71: a transaction of an assigned opcode decodes exactly when it has the bytes its opcode needs. -/
def Obligations.DecodeAcceptsExactLength : Prop :=
  ∀ (op : Byte) (args : List Byte), assignedOpcode op →
    ((∃ i, decode (op :: args) = .ok i) ↔ (op :: args).length = neededBytes (op :: args))

/-- R192 (REF_LENGTH), R195: a transaction of the wrong length is refused; a CFG whose count byte is above MAX_CH is
refused with REF_MAXCH instead. The transaction without a byte is log entry 7. -/
def Obligations.WrongLengthIsRefused : Prop :=
  ∀ (c : List Byte) (rest : List (List Byte)) (e : DecodeError) (s : State),
    s.ready → s.env.resetLine = [] → s.env.host = c :: rest → decode c = .error e →
    step s = .next { s with
      env := { s.env with host := rest }
      trace := s.trace ++ [.command c]
      phase := .refused
      refused := some (match e with
        | .cfgLength n => if s.params.maxCh < n.toNat then .maxCh else .length
        | .noOpcode | .length _ => .length) }

/-- R68, R192: a command that another agent issues during a command is refused: REF_BUSY, or REF_OPCODE for an unassigned
opcode (R195). It can come from inside a call (of the notifier, of the colour source, of the flush), at the yield of a
failed poll, and at the yield of the post-sequence. That a BEGIN in its flush is such a call is log entry 6. That the working registers keep their values in
PHASE REFUSED is the model's choice (log entry 3). -/
def Obligations.CommandDuringACommandIsRefused : Prop :=
  ∀ (op : Byte) (args : List Byte) (others : List (Option (List Byte))) (s : State),
    s.env.resetLine = [] → s.env.intruders = some (op :: args) :: others →
    let reason : RefReason := if assignedOpcode op then .busy else .opcode
    (((s.phase = .encode ∧ (s.pos = .notify ∨ ∃ idx, s.pos = .color idx) ∧
          ∃ ch, s.channels[s.chIdx]? = some ch ∧ hasPixels ch) ∨
        (s.phase = .post ∧ s.pos = .postFlush) ∨
        (s.phase = .idle ∧ ∃ speed, s.pos = .beginFlush speed)) →
      step s = .next { s with
        env := { s.env with intruders := others }
        trace := s.trace ++ [.command (op :: args)]
        phase := .refused, refused := some reason }) ∧
    (s.phase = .gapWait → elapsed s.params (reading s) s.lastDone < s.minGap →
      step s = .next { s with
        env := { s.env with time := s.env.time.tail, intruders := others }
        trace := s.trace ++ [.time (reading s), .yield, .command (op :: args)]
        phase := .refused, refused := some reason }) ∧
    (s.phase = .post → s.pos = .postYield →
      step s = .next { s with
        env := { s.env with intruders := others }
        trace := s.trace ++ [.yield, .command (op :: args)]
        phase := .refused, refused := some reason })

/-- R193: after a refusal no command and no record has a meaning, and no step while no reset sample is pending. A reset
starts a new run (90_conflicts.md C10): `ResetAbandonsWhatRuns`. That a refused instance answers `afterRefusal` is log
entry 4. -/
def Obligations.RefusalIsFinal : Prop :=
  ∀ s : State, s.phase = .refused →
    (∀ i, exec i s = .refused .afterRefusal) ∧
    ((∀ r ∈ s.env.resetLine, r = none) → step s = .refused .afterRefusal)

/-! ## Reset and the step (spec/70_reset_and_hazards.md, 30_encoding.md) -/

/-- R220, R221: the registers the spec gives a reset value hold it, and the trace is empty. That MIN_GAP holds
MIN_GAP_RESET reduced to TIME_W bits is the model's choice (log entry 18). -/
def Obligations.ResetValues : Prop :=
  ∀ p : Params, let s := State.resetWith p
    s.acc = 0xFFFFFFFF ∧ s.configured = false ∧ s.nch = 0 ∧ s.isOpen = false ∧
    s.minGap.toNat = p.minGapReset.toNat % 2 ^ p.timeW ∧ s.phase = .idle ∧ s.busy = false ∧ s.refused = none ∧
    s.trace = [] ∧ State.reset = State.resetWith Config.params

/-- R220: a reset puts every register at its reset value and appends no event, in a render too: at the start of a step, and
inside one, when k + 1 of its events have happened, of which no further one then happens. R42, 90_conflicts.md C10: it
ends a refused run, however many samples without a reset come before it. The model's choices: the registers R220 gives
no value are 0 (log entry 3), MIN_GAP_RESET is reduced to TIME_W bits (log entry 18), the environment's moves and the
trace stay (log entry 13; after a refusal log entry 4). -/
def Obligations.ResetAbandonsWhatRuns : Prop :=
  (∀ (rest : List (Option Nat)) (s : State), s.phase ≠ .refused → s.env.resetLine = some 0 :: rest →
    step s = .next { State.resetWith s.params with
      draws := s.draws, env := { s.env with resetLine := rest }, trace := s.trace }) ∧
  (∀ (k : Nat) (rest : List (Option Nat)) (s : State), s.phase ≠ .refused → s.env.resetLine = some (k + 1) :: rest →
    ∃ u, advance { s with env := { s.env with resetLine := rest } } = .next u ∧
      step s = .next { State.resetWith s.params with
        draws := u.draws, env := u.env, trace := u.trace.take (s.trace.length + (k + 1)) }) ∧
  (∀ (quiet : List (Option Nat)) (k : Nat) (rest : List (Option Nat)) (s : State), s.phase = .refused →
    (∀ r ∈ quiet, r = none) → s.env.resetLine = quiet ++ some k :: rest →
    step s = .next { State.resetWith s.params with
      draws := s.draws, env := { s.env with resetLine := rest }, trace := s.trace })

/-- R70, R221: an idle machine with no host command waits; when the host's next transaction decodes to an instruction,
the step is that instruction's execution, with the transaction taken from the port and shown in the trace. -/
def Obligations.StepRunsDecodedCommand : Prop :=
  (∀ s : State, s.ready → s.env.resetLine = [] → s.env.host = [] → step s = .next s) ∧
  (∀ (c : List Byte) (rest : List (List Byte)) (i : Instr) (s : State),
    s.ready → s.env.resetLine = [] → s.env.host = c :: rest → decode c = .ok i →
    step s = exec i { s with env := { s.env with host := rest }, trace := s.trace ++ [.command c] })

/-- R71, R73: words written out from the opcode map and the entry layout decode to what they stand for. -/
def Obligations.WrittenOutWordsDecode : Prop :=
  decode [0x01, 0x01, 0x00, 0x01, 0x03, 0xE4, 0x02, 0x00, 0xAA, 0xBB, 0x04, 0x03, 0x02, 0x01, 0x00, 0x09, 0x3D, 0x00] =
    .ok (.cfg [⟨0x00, 0x01, 0x03, 0xE4, 0x0002, 0x01020304, 0x003D0900⟩]) ∧
  decode [0x04, 0x80, 0x84, 0x1E, 0x00] = .ok (.beginTx 2000000) ∧
  decode [0x06, 0x2C, 0x01] = .ok (.render 300) ∧
  decode [0x11, 0x31] = .ok (.crcupd 0x31) ∧
  decode [0x15, 0x00] = .ok (.unassigned 0x15 [0x00]) ∧
  decodeRecord Config.magicDefault [0x55, 0x50, 0x58, 0x4C, 0x01, 0x03, 0x00, 0x09, 0x3D, 0x00, 0x24, 0x02, 0x01, 0xAB] =
    .ok (.recClockedData 0x01 4000000 0x24 0x0102, [0xAB])

/-! ## Whole-machine rules -/

/-- R153, R123, R35: while a render is in progress no step changes the registry, CONFIGURED, OPEN, SPEED, MIN_GAP or the
parameters, whatever the environment does short of a reset. -/
def Obligations.RenderKeepsConfiguration : Prop :=
  ∀ s t : State, s.busy → s.env.resetLine = [] → step s = .next t →
    t.channels = s.channels ∧ t.configured = s.configured ∧ t.isOpen = s.isOpen ∧ t.speed = s.speed ∧
    t.minGap = s.minGap ∧ t.params = s.params

/-- R179: ENCODE itself never yields, flushes, reads the time, opens or closes: in it a step appends only writes,
notifications, colour calls and (refused) commands. -/
def Obligations.EncodeNeverYields : Prop :=
  ∀ s t : State, s.phase = .encode → step s = .next t →
    ∃ es, t.trace = s.trace ++ es ∧
      ∀ e ∈ es, (∃ b, e = .write b) ∨ (∃ id tag desc, e = .switch id tag desc) ∨ (∃ idx, e = .color idx) ∨
        (∃ c, e = .command c)

/-- R45, R60: only ENCODE writes to the wire, and no step takes a byte back. -/
def Obligations.OnlyEncodeWritesTheWire : Prop :=
  ∀ s t : State, step s = .next t →
    (∃ es, t.trace = s.trace ++ es) ∧ (s.phase ≠ .encode → wire t.trace = wire s.trace)

/-- R34, R177: LAST_DONE changes only by BEGIN and by a render that completes, and what it then holds is the time just
read. -/
def Obligations.LastDoneHasTwoWriters : Prop :=
  ∀ s t : State, s.env.resetLine = [] → step s = .next t → t.lastDone ≠ s.lastDone →
    t.lastDone = reading s ∧ t.phase = .idle ∧
    ((s.phase = .post ∧ s.pos = .postFlush) ∨
      (s.phase = .idle ∧ t.isOpen ∧
        ((∃ speed, s.pos = .beginFlush speed) ∨
          ∃ c rest speed, s.env.host = c :: rest ∧ decode c = .ok (.beginTx speed))))

/-- R84: the lengths of the records, for as many colour answers as the channel has pixels, and of the terminator. -/
def Obligations.RecordLengths : Prop :=
  (∀ (m : Quad) (ch : Channel) (answers : List ColorAnswer), answers.length = (effPixOf ch).toNat →
    (effPixOf ch ≠ 0 → (effElemOf ch).toNat ≤ 4) → (recordBytes m ch answers).length = recordLength ch) ∧
  ∀ m : Quad, (terminatorBytes m).length = 10

/-- R149, R85: the bytes of a completed frame number the sum of the record lengths and 10; for one single-wire channel
of N pixels with ELEM 3 that is 24 + 3 N. -/
def Obligations.FrameByteCount : Prop :=
  (∀ (m : Quad) (chs : List Channel) (answers : List ColorAnswer), (∀ ch ∈ chs, Sendable ch) →
    answers.length = totalPixels chs →
    (wire (frameEvents m chs answers)).length = (chs.map recordLength).sum + 10) ∧
  ∀ (m : Quad) (ch : Channel) (answers : List ColorAnswer), ch.typ = 0x01 → ch.elem = 3 →
    answers.length = ch.pix.toNat → (wire (frameEvents m [ch] answers)).length = 24 + 3 * ch.pix.toNat

/-- R82, R85: the writes among a record's events are the record's bytes: header, descriptor, payload, and the CRC-32 of
exactly those. -/
def Obligations.RecordEventsWriteTheRecord : Prop :=
  ∀ (m : Quad) (ch : Channel) (answers : List ColorAnswer),
    wire (recordEvents m ch answers) = recordBytes m ch answers

/-! ## Headline results -/

/-- Decode and encode agree on the host command port: every well-formed command, and every unassigned transaction,
with every operand at every value, is what its bytes decode to. -/
def Obligations.CommandRoundTrip : Prop :=
  ∀ (m : Quad) (i : Instr), i.wellFormed → i.isRecord = false → decode (encode m i) = .ok i

/-- Decode and encode agree on the wire: every well-formed record's header and descriptor decode to it and leave the
bytes after them. Alone the record of a TYPE 2 channel with id 0xFF, whose bytes are the terminator's, reads as a
terminator: that is the model's choice (log entry 17). -/
def Obligations.RecordRoundTrip : Prop :=
  ∀ (m : Quad) (i : Instr) (rest : List Byte), i.wellFormed → i.isRecord →
    decodeRecord m (encode m i ++ rest) =
      .ok (if i = .recUnrecognized 0xFF 0x02 then .recTerminator else i, rest)

/-- The invariant holds after reset, whatever the parameters. -/
def Obligations.ResetMeetsTheInvariant : Prop :=
  ∀ p : Params, (State.resetWith p).Inv

/-- Every step keeps the invariant, from every state that meets it and whatever the environment does. -/
def Obligations.StepKeepsTheInvariant : Prop :=
  ∀ s t : State, s.Inv → step s = .next t → t.Inv

/-- R176: within one render (a run that is busy until its last step), every write comes after a time reading of that render at which at least MIN_GAP ticks had
elapsed since LAST_DONE. -/
def Obligations.NoWriteBeforeTheGapHasPassed : Prop :=
  ∀ (s t : State) (n : Nat), s.phase = .gapWait → run n s = .next t →
    (∀ m u, m < n → run m s = .next u → u.busy) →
    ∀ before b after, t.trace = s.trace ++ before ++ .write b :: after →
      ∃ pre τ post, before = pre ++ .time τ :: post ∧ s.minGap ≤ elapsed s.params τ s.lastDone

/-- R130, R85: an ENCODE whose channels all get through, in an environment that answers every call, completes: its
events are exactly the channels' records in registry order and the terminator, each record's checksum that of its own
bytes; ACC is the terminator's raw accumulator; the post-sequence is next; the registry and driver registers are kept. -/
def Obligations.EncodeWritesTheFrame : Prop :=
  ∀ (s : State) (answers rest : List ColorAnswer) (k : Nat),
    s.phase = .encode → s.pos = .enter → s.configured → s.Quiet →
    (∀ ch ∈ s.channels, Sendable ch) →
    answers.length = totalPixels s.channels → s.env.colors = answers ++ rest →
    s.env.notifyAcks = totalSwitches s.channels + k →
    ∃ n t, run n s = .next t ∧
      t.phase = .post ∧ t.pos = .postYield ∧
      t.trace = s.trace ++ frameEvents s.params.magic s.channels answers ∧
      t.acc = upd 0xFFFFFFFF (header s.params.magic 0xFF 0x02) ∧
      t.env = { s.env with colors := rest, notifyAcks := k } ∧
      t.channels = s.channels ∧ t.configured = s.configured ∧ t.isOpen = s.isOpen ∧ t.speed = s.speed ∧
      t.lastDone = s.lastDone ∧ t.minGap = s.minGap ∧ t.refused = s.refused ∧ t.params = s.params

/-- R133, R191, R147: with channels that get through before the first zero ELEM, ENCODE writes exactly their records and
the render is over: no terminator, no yield, no flush, LAST_DONE kept. ACC is the raw accumulator of the last record
written, or what it was where none was. -/
def Obligations.EncodeTruncatesAtDisabledChannel : Prop :=
  ∀ (s : State) (good later : List Channel) (bad : Channel) (answers rest : List ColorAnswer) (k : Nat),
    s.phase = .encode → s.pos = .enter → s.configured → s.Quiet →
    s.channels = good ++ bad :: later → bad.elem = 0 → (∀ ch ∈ good, Sendable ch) →
    answers.length = totalPixels good → s.env.colors = answers ++ rest →
    s.env.notifyAcks = totalSwitches good + k →
    ∃ n t, run n s = .next t ∧
      t.phase = .idle ∧ t.pos = .rest ∧
      t.trace = s.trace ++ recordsEvents s.params.magic good answers ∧
      (good = [] → t.acc = s.acc) ∧
      (∀ init last, good = init ++ [last] →
        t.acc = upd 0xFFFFFFFF (recordBody s.params.magic last (answers.drop (totalPixels init)))) ∧
      t.env = { s.env with colors := rest, notifyAcks := k } ∧
      t.channels = s.channels ∧ t.configured = s.configured ∧ t.isOpen = s.isOpen ∧ t.speed = s.speed ∧
      t.lastDone = s.lastDone ∧ t.minGap = s.minGap ∧ t.refused = s.refused ∧ t.params = s.params
end

