-- ==== Sys2Proof/Laws/Decode.lean ====
section
/-! SUPPORT. The byte forms undo each other, entry by entry; and what the host command decoder can answer. -/

namespace Sys2Proof

/-! ## Little-endian operands (R72) -/

theorem getLsbD_asm2 (b0 b1 : Byte) (i : Nat) :
    (asm2 b0 b1).getLsbD i = if i < 8 then b0.getLsbD i else b1.getLsbD (i - 8) := by
  show (b1 ++ b0 : BitVec (8 + 8)).getLsbD i = _
  rw [BitVec.getLsbD_append]

theorem getLsbD_asm4 (b0 b1 b2 b3 : Byte) (i : Nat) :
    (asm4 b0 b1 b2 b3).getLsbD i =
      if i < 8 then b0.getLsbD i
      else if i - 8 < 8 then b1.getLsbD (i - 8)
      else if i - 8 - 8 < 8 then b2.getLsbD (i - 8 - 8)
      else b3.getLsbD (i - 8 - 8 - 8) := by
  show (((b3 ++ b2 : BitVec (8 + 8)) ++ b1 : BitVec (8 + 8 + 8)) ++ b0 : BitVec (8 + 8 + 8 + 8)).getLsbD i = _
  rw [BitVec.getLsbD_append, BitVec.getLsbD_append, BitVec.getLsbD_append]

theorem asm2_le2 (v : U16) : asm2 (v.extractLsb' 0 8) (v.extractLsb' 8 8) = v := by
  refine BitVec.eq_of_getLsbD_eq fun i hi => ?_
  simp only [getLsbD_asm2, BitVec.getLsbD_extractLsb']
  split
  · simp [*]
  · rw [show 8 + (i - 8) = i by omega]; simp; omega

theorem asm4_le4 (v : U32) :
    asm4 (v.extractLsb' 0 8) (v.extractLsb' 8 8) (v.extractLsb' 16 8) (v.extractLsb' 24 8) = v := by
  refine BitVec.eq_of_getLsbD_eq fun i hi => ?_
  simp only [getLsbD_asm4, BitVec.getLsbD_extractLsb']
  split
  · simp [*]
  split
  · rw [show 8 + (i - 8) = i by omega]; simp; omega
  split
  · rw [show 16 + (i - 8 - 8) = i by omega]; simp; omega
  · rw [show 24 + (i - 8 - 8 - 8) = i by omega]; simp; omega

@[simp] theorem length_le2 (v : U16) : (le2 v).length = 2 := rfl

@[simp] theorem length_le4 (v : U32) : (le4 v).length = 4 := rfl

theorem le2_asm2 (a b : Byte) : le2 (asm2 a b) = [a, b] := by
  simp only [le2, List.cons.injEq, and_true]
  constructor <;> refine BitVec.eq_of_getLsbD_eq fun i hi => ?_ <;>
    simp only [getLsbD_asm2, BitVec.getLsbD_extractLsb', hi, decide_true, Bool.true_and]
  · simp [hi]
  · rw [if_neg (by omega)]; congr 1; omega
theorem le4_asm4 (a b c d : Byte) : le4 (asm4 a b c d) = [a, b, c, d] := by
  simp only [le4, List.cons.injEq, and_true]
  refine ⟨?_, ?_, ?_, ?_⟩ <;> refine BitVec.eq_of_getLsbD_eq fun i hi => ?_ <;>
    simp only [getLsbD_asm4, BitVec.getLsbD_extractLsb', hi, decide_true, Bool.true_and]
  · simp [hi]
  · rw [if_neg (by omega), if_pos (by omega)]; congr 1; omega
  · rw [if_neg (by omega), if_neg (by omega), if_pos (by omega)]; congr 1; omega
  · rw [if_neg (by omega), if_neg (by omega), if_neg (by omega)]; congr 1; omega

/-! ## Registry entries (R73) -/

@[simp] theorem length_encodeEntry (ch : Channel) : (encodeEntry ch).length = 16 := rfl

theorem decodeEntry_encodeEntry (ch : Channel) : decodeEntry (encodeEntry ch) = ch := by
  cases ch
  simp [decodeEntry, encodeEntry, byteAt, le2, le4, asm2_le2, asm4_le4]

theorem length_encodeEntries (chs : List Channel) : (encodeEntries chs).length = 16 * chs.length := by
  induction chs with
  | nil => rfl
  | cons ch chs ih =>
    have e : encodeEntries (ch :: chs) = encodeEntry ch ++ encodeEntries chs := rfl
    rw [e, List.length_append, ih, length_encodeEntry]
    simp
    omega

theorem decodeEntries_encodeEntries (chs : List Channel) : decodeEntries chs.length (encodeEntries chs) = chs := by
  induction chs with
  | nil => rfl
  | cons ch chs ih =>
    have e : encodeEntries (ch :: chs) = encodeEntry ch ++ encodeEntries chs := rfl
    simp only [List.length_cons, decodeEntries, e]
    rw [List.take_left' (length_encodeEntry ch), List.drop_left' (length_encodeEntry ch), ih, decodeEntry_encodeEntry]

/-! ## What the decoder can answer -/

/-- A transaction of an assigned opcode is a command or a length error; one of an unassigned opcode is UNASSIGNED. -/
theorem decode_cases (op : Byte) (args : List Byte) :
    (assignedOpcode op = true ∧
      ((∃ i, i.isCommand ∧ decode (op :: args) = .ok i) ∨ ∃ e, decode (op :: args) = .error e)) ∨
    (assignedOpcode op = false ∧ decode (op :: args) = .ok (.unassigned op args)) := by
  have h0 : ∀ i : Instr, i.isCommand → (∃ j, j.isCommand ∧ decode0 i op args = .ok j) ∨ ∃ e, decode0 i op args = .error e := by
    intro i hi
    unfold decode0
    split
    · exact .inl ⟨i, hi, rfl⟩
    · exact .inr ⟨_, rfl⟩
  have h1 : ∀ f : Byte → Instr, (∀ b, (f b).isCommand) →
      (∃ j, j.isCommand ∧ decode1 f op args = .ok j) ∨ ∃ e, decode1 f op args = .error e := by
    intro f hf
    unfold decode1
    split
    · exact .inl ⟨_, hf _, rfl⟩
    · exact .inr ⟨_, rfl⟩
  have h2 : ∀ f : U16 → Instr, (∀ v, (f v).isCommand) →
      (∃ j, j.isCommand ∧ decode2 f op args = .ok j) ∨ ∃ e, decode2 f op args = .error e := by
    intro f hf
    unfold decode2
    split
    · exact .inl ⟨_, hf _, rfl⟩
    · exact .inr ⟨_, rfl⟩
  have h4 : ∀ f : U32 → Instr, (∀ v, (f v).isCommand) →
      (∃ j, j.isCommand ∧ decode4 f op args = .ok j) ∨ ∃ e, decode4 f op args = .error e := by
    intro f hf
    unfold decode4
    split
    · exact .inl ⟨_, hf _, rfl⟩
    · exact .inr ⟨_, rfl⟩
  have hc : (∃ j, j.isCommand ∧ decodeCfg op args = .ok j) ∨ ∃ e, decodeCfg op args = .error e := by
    unfold decodeCfg
    split
    · exact .inr ⟨_, rfl⟩
    · split
      · exact .inl ⟨_, rfl, rfl⟩
      · exact .inr ⟨_, rfl⟩
  cases ha : assignedOpcode op with
  | true =>
    refine .inl ⟨rfl, ?_⟩
    simp [assignedOpcode] at ha
    rcases ha with h | h | h | h | h | h | h | h | h | h | h <;> subst h <;> simp only [decode]
    · simpa using hc
    · simpa using h0 .getcfg rfl
    · simpa using h4 .setgap fun _ => rfl
    · simpa using h4 .beginTx fun _ => rfl
    · simpa using h0 .endTx rfl
    · simpa using h2 .render fun _ => rfl
    · simpa using h0 .crcinit rfl
    · simpa using h1 .crcupd fun _ => rfl
    · simpa using h4 .crcload fun _ => rfl
    · simpa using h0 .crcread rfl
    · simpa using h0 .crcfinal rfl
  | false =>
    refine .inr ⟨rfl, ?_⟩
    simp [assignedOpcode] at ha
    simp [decode, ha]

/-- The host command port carries no record. -/
theorem decode_isRecord {c : List Byte} {i : Instr} (h : decode c = .ok i) : i.isRecord = false := by
  cases c with
  | nil => cases h
  | cons op args =>
    rcases decode_cases op args with ⟨_, ⟨j, hj, hd⟩ | ⟨e, hd⟩⟩ | ⟨_, hd⟩
    · rw [hd] at h; cases h
      cases i <;> first | rfl | simp [Instr.isCommand] at hj
    · rw [hd] at h; cases h
    · rw [hd] at h; cases h; rfl

end Sys2Proof
end

