-- ==== Sys2Proof/Laws/State.lean ====
section
/-! SUPPORT. One lemma per field of State and shared update, true by rfl and tagged simp, so that no later proof unfolds
a record update. -/

namespace Sys2Proof.Machine

/-! ## emit -/

@[simp] theorem emit_params (es : List Event) (s : State) : (emit es s).params = s.params := rfl
@[simp] theorem emit_acc (es : List Event) (s : State) : (emit es s).acc = s.acc := rfl
@[simp] theorem emit_configured (es : List Event) (s : State) : (emit es s).configured = s.configured := rfl
@[simp] theorem emit_channels (es : List Event) (s : State) : (emit es s).channels = s.channels := rfl
@[simp] theorem emit_isOpen (es : List Event) (s : State) : (emit es s).isOpen = s.isOpen := rfl
@[simp] theorem emit_speed (es : List Event) (s : State) : (emit es s).speed = s.speed := rfl
@[simp] theorem emit_lastDone (es : List Event) (s : State) : (emit es s).lastDone = s.lastDone := rfl
@[simp] theorem emit_minGap (es : List Event) (s : State) : (emit es s).minGap = s.minGap := rfl
@[simp] theorem emit_phase (es : List Event) (s : State) : (emit es s).phase = s.phase := rfl
@[simp] theorem emit_pos (es : List Event) (s : State) : (emit es s).pos = s.pos := rfl
@[simp] theorem emit_chIdx (es : List Event) (s : State) : (emit es s).chIdx = s.chIdx := rfl
@[simp] theorem emit_pixI (es : List Event) (s : State) : (emit es s).pixI = s.pixI := rfl
@[simp] theorem emit_effElem (es : List Event) (s : State) : (emit es s).effElem = s.effElem := rfl
@[simp] theorem emit_effPix (es : List Event) (s : State) : (emit es s).effPix = s.effPix := rfl
@[simp] theorem emit_dflt (es : List Event) (s : State) : (emit es s).dflt = s.dflt := rfl
@[simp] theorem emit_pbuf (es : List Event) (s : State) : (emit es s).pbuf = s.pbuf := rfl
@[simp] theorem emit_refused (es : List Event) (s : State) : (emit es s).refused = s.refused := rfl
@[simp] theorem emit_draws (es : List Event) (s : State) : (emit es s).draws = s.draws := rfl
@[simp] theorem emit_env (es : List Event) (s : State) : (emit es s).env = s.env := rfl
@[simp] theorem emit_trace (es : List Event) (s : State) : (emit es s).trace = s.trace ++ es := rfl

/-! ## raise -/

@[simp] theorem raise_params (r : RefReason) (s : State) : (raise r s).params = s.params := rfl
@[simp] theorem raise_acc (r : RefReason) (s : State) : (raise r s).acc = s.acc := rfl
@[simp] theorem raise_configured (r : RefReason) (s : State) : (raise r s).configured = s.configured := rfl
@[simp] theorem raise_channels (r : RefReason) (s : State) : (raise r s).channels = s.channels := rfl
@[simp] theorem raise_isOpen (r : RefReason) (s : State) : (raise r s).isOpen = s.isOpen := rfl
@[simp] theorem raise_speed (r : RefReason) (s : State) : (raise r s).speed = s.speed := rfl
@[simp] theorem raise_lastDone (r : RefReason) (s : State) : (raise r s).lastDone = s.lastDone := rfl
@[simp] theorem raise_minGap (r : RefReason) (s : State) : (raise r s).minGap = s.minGap := rfl
@[simp] theorem raise_phase (r : RefReason) (s : State) : (raise r s).phase = .refused := rfl
@[simp] theorem raise_pos (r : RefReason) (s : State) : (raise r s).pos = s.pos := rfl
@[simp] theorem raise_chIdx (r : RefReason) (s : State) : (raise r s).chIdx = s.chIdx := rfl
@[simp] theorem raise_pixI (r : RefReason) (s : State) : (raise r s).pixI = s.pixI := rfl
@[simp] theorem raise_effElem (r : RefReason) (s : State) : (raise r s).effElem = s.effElem := rfl
@[simp] theorem raise_effPix (r : RefReason) (s : State) : (raise r s).effPix = s.effPix := rfl
@[simp] theorem raise_dflt (r : RefReason) (s : State) : (raise r s).dflt = s.dflt := rfl
@[simp] theorem raise_pbuf (r : RefReason) (s : State) : (raise r s).pbuf = s.pbuf := rfl
@[simp] theorem raise_refused (r : RefReason) (s : State) : (raise r s).refused = some r := rfl
@[simp] theorem raise_draws (r : RefReason) (s : State) : (raise r s).draws = s.draws := rfl
@[simp] theorem raise_env (r : RefReason) (s : State) : (raise r s).env = s.env := rfl
@[simp] theorem raise_trace (r : RefReason) (s : State) : (raise r s).trace = s.trace := rfl

/-! ## toIdle -/

@[simp] theorem toIdle_params (s : State) : (toIdle s).params = s.params := rfl
@[simp] theorem toIdle_acc (s : State) : (toIdle s).acc = s.acc := rfl
@[simp] theorem toIdle_configured (s : State) : (toIdle s).configured = s.configured := rfl
@[simp] theorem toIdle_channels (s : State) : (toIdle s).channels = s.channels := rfl
@[simp] theorem toIdle_isOpen (s : State) : (toIdle s).isOpen = s.isOpen := rfl
@[simp] theorem toIdle_speed (s : State) : (toIdle s).speed = s.speed := rfl
@[simp] theorem toIdle_lastDone (s : State) : (toIdle s).lastDone = s.lastDone := rfl
@[simp] theorem toIdle_minGap (s : State) : (toIdle s).minGap = s.minGap := rfl
@[simp] theorem toIdle_phase (s : State) : (toIdle s).phase = .idle := rfl
@[simp] theorem toIdle_pos (s : State) : (toIdle s).pos = .rest := rfl
@[simp] theorem toIdle_chIdx (s : State) : (toIdle s).chIdx = s.chIdx := rfl
@[simp] theorem toIdle_pixI (s : State) : (toIdle s).pixI = s.pixI := rfl
@[simp] theorem toIdle_effElem (s : State) : (toIdle s).effElem = s.effElem := rfl
@[simp] theorem toIdle_effPix (s : State) : (toIdle s).effPix = s.effPix := rfl
@[simp] theorem toIdle_dflt (s : State) : (toIdle s).dflt = s.dflt := rfl
@[simp] theorem toIdle_pbuf (s : State) : (toIdle s).pbuf = s.pbuf := rfl
@[simp] theorem toIdle_refused (s : State) : (toIdle s).refused = s.refused := rfl
@[simp] theorem toIdle_draws (s : State) : (toIdle s).draws = s.draws := rfl
@[simp] theorem toIdle_env (s : State) : (toIdle s).env = s.env := rfl
@[simp] theorem toIdle_trace (s : State) : (toIdle s).trace = s.trace := rfl

/-! ## dropPixI -/

@[simp] theorem dropPixI_params (s : State) : (dropPixI s).params = s.params := rfl
@[simp] theorem dropPixI_acc (s : State) : (dropPixI s).acc = s.acc := rfl
@[simp] theorem dropPixI_configured (s : State) : (dropPixI s).configured = s.configured := rfl
@[simp] theorem dropPixI_channels (s : State) : (dropPixI s).channels = s.channels := rfl
@[simp] theorem dropPixI_isOpen (s : State) : (dropPixI s).isOpen = s.isOpen := rfl
@[simp] theorem dropPixI_speed (s : State) : (dropPixI s).speed = s.speed := rfl
@[simp] theorem dropPixI_lastDone (s : State) : (dropPixI s).lastDone = s.lastDone := rfl
@[simp] theorem dropPixI_minGap (s : State) : (dropPixI s).minGap = s.minGap := rfl
@[simp] theorem dropPixI_phase (s : State) : (dropPixI s).phase = s.phase := rfl
@[simp] theorem dropPixI_pos (s : State) : (dropPixI s).pos = s.pos := rfl
@[simp] theorem dropPixI_chIdx (s : State) : (dropPixI s).chIdx = s.chIdx := rfl
@[simp] theorem dropPixI_pixI (s : State) : (dropPixI s).pixI = Config.freePixI s.draws := rfl
@[simp] theorem dropPixI_effElem (s : State) : (dropPixI s).effElem = s.effElem := rfl
@[simp] theorem dropPixI_effPix (s : State) : (dropPixI s).effPix = s.effPix := rfl
@[simp] theorem dropPixI_dflt (s : State) : (dropPixI s).dflt = s.dflt := rfl
@[simp] theorem dropPixI_pbuf (s : State) : (dropPixI s).pbuf = s.pbuf := rfl
@[simp] theorem dropPixI_refused (s : State) : (dropPixI s).refused = s.refused := rfl
@[simp] theorem dropPixI_draws (s : State) : (dropPixI s).draws = s.draws + 1 := rfl
@[simp] theorem dropPixI_env (s : State) : (dropPixI s).env = s.env := rfl
@[simp] theorem dropPixI_trace (s : State) : (dropPixI s).trace = s.trace := rfl

/-! ## dropWorking -/

@[simp] theorem dropWorking_params (s : State) : (dropWorking s).params = s.params := rfl
@[simp] theorem dropWorking_acc (s : State) : (dropWorking s).acc = s.acc := rfl
@[simp] theorem dropWorking_configured (s : State) : (dropWorking s).configured = s.configured := rfl
@[simp] theorem dropWorking_channels (s : State) : (dropWorking s).channels = s.channels := rfl
@[simp] theorem dropWorking_isOpen (s : State) : (dropWorking s).isOpen = s.isOpen := rfl
@[simp] theorem dropWorking_speed (s : State) : (dropWorking s).speed = s.speed := rfl
@[simp] theorem dropWorking_lastDone (s : State) : (dropWorking s).lastDone = s.lastDone := rfl
@[simp] theorem dropWorking_minGap (s : State) : (dropWorking s).minGap = s.minGap := rfl
@[simp] theorem dropWorking_phase (s : State) : (dropWorking s).phase = s.phase := rfl
@[simp] theorem dropWorking_pos (s : State) : (dropWorking s).pos = s.pos := rfl
@[simp] theorem dropWorking_chIdx (s : State) : (dropWorking s).chIdx = Config.freeChIdx s.draws := rfl
@[simp] theorem dropWorking_pixI (s : State) : (dropWorking s).pixI = Config.freePixI s.draws := rfl
@[simp] theorem dropWorking_effElem (s : State) : (dropWorking s).effElem = Config.freeEffElem s.draws := rfl
@[simp] theorem dropWorking_effPix (s : State) : (dropWorking s).effPix = Config.freeEffPix s.draws := rfl
@[simp] theorem dropWorking_dflt (s : State) : (dropWorking s).dflt = Config.freeDefault s.draws := rfl
@[simp] theorem dropWorking_pbuf (s : State) : (dropWorking s).pbuf = Config.freePbuf s.draws := rfl
@[simp] theorem dropWorking_refused (s : State) : (dropWorking s).refused = s.refused := rfl
@[simp] theorem dropWorking_draws (s : State) : (dropWorking s).draws = s.draws + 1 := rfl
@[simp] theorem dropWorking_env (s : State) : (dropWorking s).env = s.env := rfl
@[simp] theorem dropWorking_trace (s : State) : (dropWorking s).trace = s.trace := rfl

/-! ## now -/

@[simp] theorem now_params (s : State) : (now s).params = s.params := rfl
@[simp] theorem now_acc (s : State) : (now s).acc = s.acc := rfl
@[simp] theorem now_configured (s : State) : (now s).configured = s.configured := rfl
@[simp] theorem now_channels (s : State) : (now s).channels = s.channels := rfl
@[simp] theorem now_isOpen (s : State) : (now s).isOpen = s.isOpen := rfl
@[simp] theorem now_speed (s : State) : (now s).speed = s.speed := rfl
@[simp] theorem now_lastDone (s : State) : (now s).lastDone = s.lastDone := rfl
@[simp] theorem now_minGap (s : State) : (now s).minGap = s.minGap := rfl
@[simp] theorem now_phase (s : State) : (now s).phase = s.phase := rfl
@[simp] theorem now_pos (s : State) : (now s).pos = s.pos := rfl
@[simp] theorem now_chIdx (s : State) : (now s).chIdx = s.chIdx := rfl
@[simp] theorem now_pixI (s : State) : (now s).pixI = s.pixI := rfl
@[simp] theorem now_effElem (s : State) : (now s).effElem = s.effElem := rfl
@[simp] theorem now_effPix (s : State) : (now s).effPix = s.effPix := rfl
@[simp] theorem now_dflt (s : State) : (now s).dflt = s.dflt := rfl
@[simp] theorem now_pbuf (s : State) : (now s).pbuf = s.pbuf := rfl
@[simp] theorem now_refused (s : State) : (now s).refused = s.refused := rfl
@[simp] theorem now_draws (s : State) : (now s).draws = s.draws := rfl
@[simp] theorem now_env (s : State) : (now s).env = { s.env with time := s.env.time.tail } := rfl
@[simp] theorem now_trace (s : State) : (now s).trace = s.trace ++ [.time (reading s)] := rfl

/-! ## emitC -/

@[simp] theorem emitC_params (bs : List Byte) (s : State) : (emitC bs s).params = s.params := rfl
@[simp] theorem emitC_acc (bs : List Byte) (s : State) : (emitC bs s).acc = upd s.acc bs := rfl
@[simp] theorem emitC_configured (bs : List Byte) (s : State) : (emitC bs s).configured = s.configured := rfl
@[simp] theorem emitC_channels (bs : List Byte) (s : State) : (emitC bs s).channels = s.channels := rfl
@[simp] theorem emitC_isOpen (bs : List Byte) (s : State) : (emitC bs s).isOpen = s.isOpen := rfl
@[simp] theorem emitC_speed (bs : List Byte) (s : State) : (emitC bs s).speed = s.speed := rfl
@[simp] theorem emitC_lastDone (bs : List Byte) (s : State) : (emitC bs s).lastDone = s.lastDone := rfl
@[simp] theorem emitC_minGap (bs : List Byte) (s : State) : (emitC bs s).minGap = s.minGap := rfl
@[simp] theorem emitC_phase (bs : List Byte) (s : State) : (emitC bs s).phase = s.phase := rfl
@[simp] theorem emitC_pos (bs : List Byte) (s : State) : (emitC bs s).pos = s.pos := rfl
@[simp] theorem emitC_chIdx (bs : List Byte) (s : State) : (emitC bs s).chIdx = s.chIdx := rfl
@[simp] theorem emitC_pixI (bs : List Byte) (s : State) : (emitC bs s).pixI = s.pixI := rfl
@[simp] theorem emitC_effElem (bs : List Byte) (s : State) : (emitC bs s).effElem = s.effElem := rfl
@[simp] theorem emitC_effPix (bs : List Byte) (s : State) : (emitC bs s).effPix = s.effPix := rfl
@[simp] theorem emitC_dflt (bs : List Byte) (s : State) : (emitC bs s).dflt = s.dflt := rfl
@[simp] theorem emitC_pbuf (bs : List Byte) (s : State) : (emitC bs s).pbuf = s.pbuf := rfl
@[simp] theorem emitC_refused (bs : List Byte) (s : State) : (emitC bs s).refused = s.refused := rfl
@[simp] theorem emitC_draws (bs : List Byte) (s : State) : (emitC bs s).draws = s.draws := rfl
@[simp] theorem emitC_env (bs : List Byte) (s : State) : (emitC bs s).env = s.env := rfl
@[simp] theorem emitC_trace (bs : List Byte) (s : State) : (emitC bs s).trace = s.trace ++ bs.map .write := rfl

/-! ## emitChecksum -/

@[simp] theorem emitChecksum_params (s : State) : (emitChecksum s).params = s.params := rfl
@[simp] theorem emitChecksum_acc (s : State) : (emitChecksum s).acc = s.acc := rfl
@[simp] theorem emitChecksum_configured (s : State) : (emitChecksum s).configured = s.configured := rfl
@[simp] theorem emitChecksum_channels (s : State) : (emitChecksum s).channels = s.channels := rfl
@[simp] theorem emitChecksum_isOpen (s : State) : (emitChecksum s).isOpen = s.isOpen := rfl
@[simp] theorem emitChecksum_speed (s : State) : (emitChecksum s).speed = s.speed := rfl
@[simp] theorem emitChecksum_lastDone (s : State) : (emitChecksum s).lastDone = s.lastDone := rfl
@[simp] theorem emitChecksum_minGap (s : State) : (emitChecksum s).minGap = s.minGap := rfl
@[simp] theorem emitChecksum_phase (s : State) : (emitChecksum s).phase = s.phase := rfl
@[simp] theorem emitChecksum_pos (s : State) : (emitChecksum s).pos = s.pos := rfl
@[simp] theorem emitChecksum_chIdx (s : State) : (emitChecksum s).chIdx = s.chIdx := rfl
@[simp] theorem emitChecksum_pixI (s : State) : (emitChecksum s).pixI = s.pixI := rfl
@[simp] theorem emitChecksum_effElem (s : State) : (emitChecksum s).effElem = s.effElem := rfl
@[simp] theorem emitChecksum_effPix (s : State) : (emitChecksum s).effPix = s.effPix := rfl
@[simp] theorem emitChecksum_dflt (s : State) : (emitChecksum s).dflt = s.dflt := rfl
@[simp] theorem emitChecksum_pbuf (s : State) : (emitChecksum s).pbuf = s.pbuf := rfl
@[simp] theorem emitChecksum_refused (s : State) : (emitChecksum s).refused = s.refused := rfl
@[simp] theorem emitChecksum_draws (s : State) : (emitChecksum s).draws = s.draws := rfl
@[simp] theorem emitChecksum_env (s : State) : (emitChecksum s).env = s.env := rfl
@[simp] theorem emitChecksum_trace (s : State) : (emitChecksum s).trace = s.trace ++ (le4 (final s.acc)).map .write := rfl

/-! ## powerOn -/

@[simp] theorem powerOn_params (s : State) : (powerOn s).params = s.params := rfl
@[simp] theorem powerOn_acc (s : State) : (powerOn s).acc = 0xFFFFFFFF := rfl
@[simp] theorem powerOn_configured (s : State) : (powerOn s).configured = false := rfl
@[simp] theorem powerOn_channels (s : State) : (powerOn s).channels = [] := rfl
@[simp] theorem powerOn_isOpen (s : State) : (powerOn s).isOpen = false := rfl
@[simp] theorem powerOn_speed (s : State) : (powerOn s).speed = 0 := rfl
@[simp] theorem powerOn_lastDone (s : State) : (powerOn s).lastDone = 0 := rfl
@[simp] theorem powerOn_phase (s : State) : (powerOn s).phase = .idle := rfl
@[simp] theorem powerOn_pos (s : State) : (powerOn s).pos = .rest := rfl
@[simp] theorem powerOn_refused (s : State) : (powerOn s).refused = none := rfl
@[simp] theorem powerOn_draws (s : State) : (powerOn s).draws = s.draws := rfl
@[simp] theorem powerOn_env (s : State) : (powerOn s).env = s.env := rfl
@[simp] theorem powerOn_trace (s : State) : (powerOn s).trace = s.trace := rfl
@[simp] theorem powerOn_minGap (s : State) :
    (powerOn s).minGap = BitVec.ofNat 32 (s.params.minGapReset.toNat % 2 ^ s.params.timeW) := rfl

end Sys2Proof.Machine
end

