-- ==== Sys2Proof/Laws/Ops.lean ====
section
/-! SUPPORT. One spec lemma per shared operation: what it can do, said once; callers cite it and do not unfold it. -/

namespace Sys2Proof.Machine

open Host (Outcome)

/-! ## The trace and the wire -/

@[simp] theorem wire_nil : wire [] = [] := rfl

@[simp] theorem wire_append (a b : List Event) : wire (a ++ b) = wire a ++ wire b := List.filterMap_append

@[simp] theorem wire_map_write (bs : List Byte) : wire (bs.map .write) = bs := by
  induction bs with
  | nil => rfl
  | cons b bs ih => simpa [wire, writtenByte] using ih

/-- An entry that is no write puts nothing on the wire. -/
theorem wire_singleton_none {e : Event} (h : writtenByte e = none) : wire [e] = [] := by simp [wire, h]

theorem emit_emit (a b : List Event) (s : State) : emit b (emit a s) = emit (a ++ b) s := by
  simp [emit, List.append_assoc]

/-! ## The checksum engine -/

@[simp] theorem upd_nil (st : U32) : upd st [] = st := rfl

@[simp] theorem upd_cons (st : U32) (b : Byte) (bs : List Byte) : upd st (b :: bs) = upd (updByte st b) bs := rfl

/-- The checksummed write is the byte loop of R135: write a byte, feed it, go on. -/
theorem emitC_cons (b : Byte) (bs : List Byte) (s : State) :
    emitC (b :: bs) s = emitC bs { emit [.write b] s with acc := updByte s.acc b } := by
  simp [emitC, emit]

@[simp] theorem emitC_nil (s : State) : emitC [] s = s := by simp [emitC, emit]

/-! ## Commands -/

theorem ready_iff {s : State} : s.ready = true ↔ s.phase = .idle ∧ s.pos = .rest := by simp [State.ready]

theorem busy_iff {s : State} : s.busy = true ↔ s.phase ≠ .idle ∧ s.phase ≠ .refused := by simp [State.busy]

/-- An instance that is not refused goes on. -/
theorem unlessRefused_live {k : State → Outcome State Fault Refusal} {s : State} (h : s.phase ≠ .refused) :
    unlessRefused k s = k s := if_neg h

/-- A refused instance has no meaning (R193). -/
theorem unlessRefused_refused {k : State → Outcome State Fault Refusal} {s : State} (h : s.phase = .refused) :
    unlessRefused k s = .refused .afterRefusal := if_pos h

/-- A next state comes from an instance that is not refused. -/
theorem unlessRefused_cases {k : State → Outcome State Fault Refusal} {s t : State} (h : unlessRefused k s = .next t) :
    s.phase ≠ .refused ∧ k s = .next t := by
  by_cases hp : s.phase = .refused
  · rw [unlessRefused_refused hp] at h; cases h
  · exact ⟨hp, (unlessRefused_live hp).symm.trans h⟩

/-- An idle machine runs the command's body. -/
theorem hostCommand_ready {body : State → State} {s : State} (h : s.ready) : hostCommand body s = .next (body s) := by
  have h' := ready_iff.mp h
  rw [hostCommand, unlessRefused_live (by simp [h'.1]), if_pos h]

/-- A busy machine refuses the command. -/
theorem hostCommand_busy {body : State → State} {s : State} (h : s.busy) :
    hostCommand body s = .next (raise .busy s) := by
  have h' := busy_iff.mp h
  rw [hostCommand, unlessRefused_live h'.2, if_neg (by simp [State.ready, h'.1])]

/-- After a refusal a command has no meaning. -/
theorem hostCommand_refused {body : State → State} {s : State} (h : s.phase = .refused) :
    hostCommand body s = .refused .afterRefusal := unlessRefused_refused h

/-- An instance that is not refused takes a host command up or refuses it: it never stops. -/
theorem hostCommand_live {body : State → State} {s : State} (h : s.phase ≠ .refused) :
    ∃ t, hostCommand body s = .next t := by
  rw [hostCommand, unlessRefused_live h]
  split <;> exact ⟨_, rfl⟩

/-- What a host command can answer: its body's state, or the REF_BUSY refusal. -/
theorem hostCommand_cases {body : State → State} {s t : State} (h : hostCommand body s = .next t) :
    (s.ready = true ∧ t = body s) ∨ (s.phase ≠ .refused ∧ s.ready = false ∧ t = raise .busy s) := by
  obtain ⟨hp, h⟩ := unlessRefused_cases h
  split at h
  · next hr => exact .inl ⟨hr, (Outcome.next.inj h).symm⟩
  · next hr => exact .inr ⟨hp, by simpa using hr, (Outcome.next.inj h).symm⟩

/-- What a record's meaning can answer. -/
theorem sequencerStep_cases {body : State → State} {s t : State} (h : sequencerStep body s = .next t) :
    s.phase ≠ .refused ∧ t = body s := by
  obtain ⟨hp, h⟩ := unlessRefused_cases h
  exact ⟨hp, (Outcome.next.inj h).symm⟩

theorem sequencerStep_next {body : State → State} {s : State} (h : s.phase ≠ .refused) :
    sequencerStep body s = .next (body s) := unlessRefused_live h

/-! ## The environment's calls -/

/-- A state whose next window entry has been taken. -/
abbrev popIntruder (rest : List (Option (List Byte))) (s : State) : State :=
  { s with env := { s.env with intruders := rest } }

theorem window_quiet {k : State → State} {s : State} (h : s.env.intruders = []) : window k s = k s := by
  simp [window, h]

theorem window_intruded {k : State → State} {s : State} {c : List Byte} {rest : List (Option (List Byte))}
    (h : s.env.intruders = some c :: rest) :
    window k s = raise (intrusionReason c) (emit [.command c] (popIntruder rest s)) := by simp [window, h]

/-- What a window can do: go on, go on with an entry taken, or refuse a command. -/
theorem window_cases (k : State → State) (s : State) :
    (∃ rest, window k s = k (popIntruder rest s)) ∨
    (∃ c rest, window k s = raise (intrusionReason c) (emit [.command c] (popIntruder rest s))) := by
  unfold window
  split
  · next h => exact .inl ⟨[], by rw [show popIntruder [] s = s by simp [popIntruder, ← h]]⟩
  · next rest h => exact .inl ⟨rest, rfl⟩
  · next c rest h => exact .inr ⟨c, rest, rfl⟩

/-- A window as a relation between the state before and after. -/
theorem window_rel {R : State → Prop} {k : State → State} {s : State}
    (hc : ∀ c e, R (raise (intrusionReason c) (emit [.command c] { s with env := e })))
    (hk : ∀ rest, R (k (popIntruder rest s))) : R (window k s) := by
  rcases window_cases k s with ⟨rest, h⟩ | ⟨c, rest, h⟩ <;> rw [h]
  · exact hk rest
  · exact hc c _

theorem flushWait_zero {k : State → State} {s : State} (hi : s.env.intruders = []) (h : s.env.flushAcks = 0) :
    flushWait k s = s := by simp [flushWait, window_quiet hi, h]

theorem flushWait_succ {k : State → State} {s : State} {n : Nat} (hi : s.env.intruders = [])
    (h : s.env.flushAcks = n + 1) : flushWait k s = k { s with env := { s.env with flushAcks := n } } := by
  simp [flushWait, window_quiet hi, h]

theorem notifyWait_succ {k : State → State} {s : State} {n : Nat} (hi : s.env.intruders = [])
    (h : s.env.notifyAcks = n + 1) : notifyWait k s = k { s with env := { s.env with notifyAcks := n } } := by
  simp [notifyWait, window_quiet hi, h]

theorem colorWait_cons {k : ColorAnswer → State → State} {s : State} {a : ColorAnswer} {rest : List ColorAnswer}
    (hi : s.env.intruders = []) (h : s.env.colors = a :: rest) :
    colorWait k s = k a { s with env := { s.env with colors := rest } } := by
  simp [colorWait, window_quiet hi, h]

/-- What a blocking call can do: its command refused, nothing (it waits), or its return; before that only fields of the
environment change. -/
theorem flushWait_cases (k : State → State) (s : State) :
    (∃ c e, flushWait k s = raise (intrusionReason c) (emit [.command c] { s with env := e })) ∨
    (∃ e, flushWait k s = { s with env := e }) ∨
    (∃ e, e.time = s.env.time ∧ e.clock = s.env.clock ∧ flushWait k s = k { s with env := e }) := by
  unfold flushWait
  apply window_rel (R := fun t => (∃ c e, t = raise (intrusionReason c) (emit [.command c] { s with env := e })) ∨
    (∃ e, t = { s with env := e }) ∨
    (∃ e, e.time = s.env.time ∧ e.clock = s.env.clock ∧ t = k { s with env := e }))
  · intro c e
    exact .inl ⟨c, e, rfl⟩
  · intro rest
    split
    · exact .inr (.inl ⟨_, rfl⟩)
    · next n _ => exact .inr (.inr ⟨{ s.env with intruders := rest, flushAcks := n }, rfl, rfl, rfl⟩)

theorem notifyWait_cases (k : State → State) (s : State) :
    (∃ c e, notifyWait k s = raise (intrusionReason c) (emit [.command c] { s with env := e })) ∨
    (∃ e, notifyWait k s = { s with env := e }) ∨
    (∃ e, notifyWait k s = k { s with env := e }) := by
  unfold notifyWait
  apply window_rel (R := fun t => (∃ c e, t = raise (intrusionReason c) (emit [.command c] { s with env := e })) ∨
    (∃ e, t = { s with env := e }) ∨ (∃ e, t = k { s with env := e }))
  · intro c e
    exact .inl ⟨c, e, rfl⟩
  · intro rest
    split
    · exact .inr (.inl ⟨_, rfl⟩)
    · next n _ => exact .inr (.inr ⟨{ s.env with intruders := rest, notifyAcks := n }, rfl⟩)

theorem colorWait_cases (k : ColorAnswer → State → State) (s : State) :
    (∃ c e, colorWait k s = raise (intrusionReason c) (emit [.command c] { s with env := e })) ∨
    (∃ e, colorWait k s = { s with env := e }) ∨
    (∃ a e, colorWait k s = k a { s with env := e }) := by
  unfold colorWait
  apply window_rel (R := fun t => (∃ c e, t = raise (intrusionReason c) (emit [.command c] { s with env := e })) ∨
    (∃ e, t = { s with env := e }) ∨ (∃ a e, t = k a { s with env := e }))
  · intro c e
    exact .inl ⟨c, e, rfl⟩
  · intro rest
    split
    · exact .inr (.inl ⟨_, rfl⟩)
    · next a as _ => exact .inr (.inr ⟨a, { s.env with intruders := rest, colors := as }, rfl⟩)

/-- A blocking call as a relation between the state before and after: it is enough to show it for a refused command,
for waiting, and for the call's return. -/
theorem flushWait_rel {R : State → Prop} {k : State → State} {s : State}
    (hc : ∀ c e, R (raise (intrusionReason c) (emit [.command c] { s with env := e })))
    (hw : ∀ e, R { s with env := e })
    (hk : ∀ e, e.time = s.env.time → e.clock = s.env.clock → R (k { s with env := e })) : R (flushWait k s) := by
  rcases flushWait_cases k s with ⟨c, e, h⟩ | ⟨e, h⟩ | ⟨e, h1, h2, h⟩ <;> rw [h]
  · exact hc c e
  · exact hw e
  · exact hk e h1 h2

theorem notifyWait_rel {R : State → Prop} {k : State → State} {s : State}
    (hc : ∀ c e, R (raise (intrusionReason c) (emit [.command c] { s with env := e })))
    (hw : ∀ e, R { s with env := e }) (hk : ∀ e, R (k { s with env := e })) : R (notifyWait k s) := by
  rcases notifyWait_cases k s with ⟨c, e, h⟩ | ⟨e, h⟩ | ⟨e, h⟩ <;> rw [h]
  · exact hc c e
  · exact hw e
  · exact hk e

theorem colorWait_rel {R : State → Prop} {k : ColorAnswer → State → State} {s : State}
    (hc : ∀ c e, R (raise (intrusionReason c) (emit [.command c] { s with env := e })))
    (hw : ∀ e, R { s with env := e }) (hk : ∀ a e, R (k a { s with env := e })) : R (colorWait k s) := by
  rcases colorWait_cases k s with ⟨c, e, h⟩ | ⟨e, h⟩ | ⟨a, e, h⟩ <;> rw [h]
  · exact hc c e
  · exact hw e
  · exact hk a e

/-! ## Time -/

/-- A tick is below 2^TIME_W: TIME_W is at most 32. -/
theorem tick_lt (p : Params) (v : U32) : (tick p v).toNat < 2 ^ p.timeW := by
  have h := Nat.mod_lt v.toNat (Nat.two_pow_pos p.timeW)
  simp only [tick, BitVec.toNat_ofNat]
  exact lt_of_le_of_lt (Nat.mod_le _ _) h

theorem reading_lt (s : State) : (reading s).toNat < 2 ^ s.params.timeW := by
  unfold reading
  split <;> exact tick_lt _ _

/-- A reading depends on the time input's own fields and the parameters alone. -/
theorem reading_congr {s t : State} (hp : t.params = s.params) (ht : t.env.time = s.env.time)
    (hc : t.env.clock = s.env.clock) : reading t = reading s := by simp [reading, hp, ht, hc]

end Sys2Proof.Machine
end

