-- ==== Sys2Proof/Laws/PerInstr.lean ====
section
/-! SUPPORT. The per-instruction family `Length`: a well-formed instruction's encoding has the length its row of the
opcode map (R71, R72) or its record layout (R75 to R80) gives. -/

namespace Sys2Proof.Laws.Length

/-- The encoding of a well-formed instruction has `encodedLength` bytes, whatever MAGIC is. -/
def Statement (i : Instr) : Prop := i.wellFormed → ∀ m : Quad, (encode m i).length = i.encodedLength

theorem cfg (entries : List Channel) : Statement (.cfg entries) := by
  intro _ m
  simp [encode, Instr.encodedLength, length_encodeEntries]
  omega
theorem getcfg : Statement .getcfg := fun _ _ => rfl
theorem setgap (g : U32) : Statement (.setgap g) := fun _ _ => rfl
theorem beginTx (speed : U32) : Statement (.beginTx speed) := fun _ _ => rfl
theorem endTx : Statement .endTx := fun _ _ => rfl
theorem render (pixelCount : U16) : Statement (.render pixelCount) := fun _ _ => rfl
theorem crcinit : Statement .crcinit := fun _ _ => rfl
theorem crcupd (b : Byte) : Statement (.crcupd b) := fun _ _ => rfl
theorem crcload (v : U32) : Statement (.crcload v) := fun _ _ => rfl
theorem crcread : Statement .crcread := fun _ _ => rfl
theorem crcfinal : Statement .crcfinal := fun _ _ => rfl
theorem recSingleWire (id elem co : Byte) (pix : U16) : Statement (.recSingleWire id elem co pix) := fun _ _ => rfl
theorem recTerminator : Statement .recTerminator := fun _ _ => rfl
theorem recClockedData (id : Byte) (freq : U32) (co3 : BitVec 6) (pix : U16) :
    Statement (.recClockedData id freq co3 pix) := fun _ _ => rfl
theorem recClockOnly (id : Byte) (freq : U32) : Statement (.recClockOnly id freq) := fun _ _ => rfl
theorem recUnrecognized (id tag : Byte) : Statement (.recUnrecognized id tag) := fun _ _ => rfl
theorem unassigned (op : Byte) (rest : List Byte) : Statement (.unassigned op rest) := by
  intro _ m
  simp [encode, Instr.encodedLength]
  omega

end Sys2Proof.Laws.Length
end

