-- ==== Sys2Proof/Laws/Step.lean ====
section
/-! SUPPORT. What one step can do: one equation per phase in a quiet environment, and one inversion lemma. -/

namespace Sys2Proof.Machine

/-! ## The samples of the reset input -/

theorem afterNextReset_quiet {rs : List (Option Nat)} (h : ∀ r ∈ rs, r = none) : afterNextReset rs = none := by
  induction rs with
  | nil => rfl
  | cons r rs ih =>
    obtain rfl := h r (by simp)
    exact ih fun r hr => h r (by simp [hr])

theorem afterNextReset_append {quiet : List (Option Nat)} (h : ∀ r ∈ quiet, r = none) (k : Nat)
    (rest : List (Option Nat)) : afterNextReset (quiet ++ some k :: rest) = some rest := by
  induction quiet with
  | nil => rfl
  | cons r quiet ih =>
    obtain rfl := h r (by simp)
    exact ih fun r hr => h r (by simp [hr])

@[simp] theorem withResets_same (s : State) : withResets s.env.resetLine s = s := rfl

@[simp] theorem withResets_phase (rest : List (Option Nat)) (s : State) : (withResets rest s).phase = s.phase := rfl
@[simp] theorem withResets_trace (rest : List (Option Nat)) (s : State) : (withResets rest s).trace = s.trace := rfl
@[simp] theorem withResets_params (rest : List (Option Nat)) (s : State) : (withResets rest s).params = s.params := rfl

/-- A reset inside a step is a power-on reset of some state whose trace is s's and the first events of the step. -/
theorem resetDuring_eq_powerOn (k : Nat) {s t : State} {es : List Event} (h : t.trace = s.trace ++ es) :
    resetDuring k s t = powerOn { s with draws := t.draws, env := t.env, trace := s.trace ++ es.take k } := by
  rw [resetDuring, h, List.take_length_add_append]

/-! ## One step, by phase -/

/-- In PHASE REFUSED, with no reset to come, a step has no meaning (R193). -/
theorem step_refused {s : State} (h : s.phase = .refused) (hr : ∀ r ∈ s.env.resetLine, r = none) :
    step s = .refused .afterRefusal := by
  simp [step, sampleReset, h, afterNextReset_quiet hr, advance]

/-- Without a reset sample the step is the sequencer's move. -/
theorem step_eq_advance {s : State} (hr : s.env.resetLine = []) : step s = advance s := by
  simp [step, sampleReset, hr, afterNextReset]

theorem step_gapWait {s : State} (hp : s.phase = .gapWait) (hr : s.env.resetLine = []) :
    step s = .next (gapPoll s) := by simp [step_eq_advance hr, advance, hp]

theorem step_post {s : State} (hp : s.phase = .post) (hr : s.env.resetLine = []) :
    step s = .next (postStep s) := by simp [step_eq_advance hr, advance, hp]

theorem step_encode {s : State} (hp : s.phase = .encode) (hr : s.env.resetLine = []) :
    step s = encodeStep s := by simp [step_eq_advance hr, advance, hp]

theorem step_idle {s : State} (hp : s.phase = .idle) (hr : s.env.resetLine = []) :
    step s = idleStep s := by simp [step_eq_advance hr, advance, hp]

/-- ENCODE past its first line runs a record, or aborts. -/
theorem encodeStep_record {s : State} (hp : s.pos ≠ .enter) {i : Instr} (h : fetchRecord s = some i) :
    encodeStep s = exec i s := by simp [encodeStep, hp, h]

/-- A step that answers a next state: a reset at its start, a reset inside the sequencer's move, or the move. -/
theorem step_cases {s t : State} (h : step s = .next t) :
    (∃ rest, t = powerOn (withResets rest s)) ∨
    (s.phase ≠ .refused ∧ ∃ k rest u, advance (withResets rest s) = .next u ∧ t = resetDuring (k + 1) s u) ∨
    (s.phase ≠ .refused ∧ ∃ rest, advance (withResets rest s) = .next t) := by
  unfold step sampleReset at h
  split at h
  · next hp =>
    split at h
    · simp [advance, hp] at h
    · next rest _ => exact .inl ⟨rest, (Host.Outcome.next.inj h).symm⟩
  · next hp =>
    split at h
    · exact .inr (.inr ⟨hp, s.env.resetLine, h⟩)
    · next rest _ => exact .inr (.inr ⟨hp, rest, h⟩)
    · next rest _ => exact .inl ⟨rest, (Host.Outcome.next.inj h).symm⟩
    · next k rest _ =>
      cases ha : advance (withResets rest s) with
      | next u => rw [ha] at h; exact .inr (.inl ⟨hp, k, rest, u, ha, (Host.Outcome.next.inj h).symm⟩)
      | fault r => cases r
      | refused r => rw [ha] at h; cases h

/-- A host command is a body under the command's frame. -/
theorem exec_command {i : Instr} (hi : i.isCommand) (s : State) : ∃ body, exec i s = hostCommand body s := by
  cases i with
  | recSingleWire _ _ _ _ | recTerminator | recClockedData _ _ _ _ | recClockOnly _ _ | recUnrecognized _ _
  | unassigned _ _ => cases hi
  | _ =>
    simp only [exec, execCfg, execGetcfg, execSetgap, execBegin, execEnd, execRender, execCrcinit, execCrcupd, execCrcload,
      execCrcread, execCrcfinal]
    exact ⟨_, rfl⟩

/-- In an instance that is not refused every instruction answers a next state. -/
theorem exec_live (i : Instr) {s : State} (h : s.phase ≠ .refused) : ∃ t, exec i s = .next t := by
  by_cases hc : i.isCommand
  · obtain ⟨body, hb⟩ := exec_command hc s
    rw [hb]
    exact hostCommand_live h
  · cases i with
    | recSingleWire _ _ _ _ | recTerminator | recClockedData _ _ _ _ | recClockOnly _ _ | recUnrecognized _ _ =>
      simp only [exec, execRecSingleWire, execRecTerminator, execRecClockedData, execRecClockOnly, execRecUnrecognized]
      exact ⟨_, sequencerStep_next h⟩
    | unassigned op rest =>
      simp only [exec, execUnassigned]
      exact ⟨_, unlessRefused_live h⟩
    | _ => exact absurd rfl hc

/-- In a phase that is not REFUSED the sequencer has a move. -/
theorem advance_live {s : State} (h : s.phase ≠ .refused) : ∃ t, advance s = .next t := by
  cases hp : s.phase with
  | refused => exact absurd hp h
  | gapWait => simp [advance, hp]
  | post => simp [advance, hp]
  | idle =>
    simp only [advance, hp, idleStep]
    split
    · exact ⟨_, rfl⟩
    all_goals
      split
      · exact ⟨_, rfl⟩
      · unfold runTransaction
        split
        · exact exec_live _ h
        · exact hostCommand_live h
  | encode =>
    simp only [advance, hp, encodeStep]
    split
    · exact ⟨_, rfl⟩
    · split
      · exact ⟨_, rfl⟩
      · exact exec_live _ h

/-! ## What one move can do -/

/-- What a move from IDLE can do: BEGIN's flush goes on, nothing, or the host's next transaction runs. -/
theorem idleStep_cases {s t : State} (h : idleStep s = .next t) :
    (∃ speed, s.pos = .beginFlush speed ∧ t = beginFlushed speed s) ∨
    ((∀ speed, s.pos ≠ .beginFlush speed) ∧
      (t = s ∨ ∃ c rest, s.env.host = c :: rest ∧ runTransaction c (accept c rest s) = .next t)) := by
  unfold idleStep at h
  cases hp : s.pos with
  | beginFlush speed =>
    simp only [hp] at h
    exact .inl ⟨speed, rfl, (Host.Outcome.next.inj h).symm⟩
  | _ =>
    refine .inr ⟨by simp, ?_⟩
    simp only [hp] at h
    cases hh : s.env.host with
    | nil => rw [hh] at h; exact .inl (Host.Outcome.next.inj h).symm
    | cons c rest => rw [hh] at h; exact .inr ⟨c, rest, rfl, h⟩

/-- What a move in ENCODE can do: the first line, the abort, or a record. -/
theorem encodeStep_cases {s t : State} (h : encodeStep s = .next t) :
    (s.pos = .enter ∧ t = encodeEnter s) ∨
    (s.pos = .visit ∧ t = toIdle (dropWorking s)) ∨
    (s.pos ≠ .enter ∧ ∃ i, fetchRecord s = some i ∧ i.isRecord ∧ exec i s = .next t) := by
  unfold encodeStep at h
  split at h
  · next hp => exact .inl ⟨hp, (Host.Outcome.next.inj h).symm⟩
  · next hp =>
    cases hf : fetchRecord s with
    | none =>
      rw [hf] at h
      refine .inr (.inl ⟨?_, (Host.Outcome.next.inj h).symm⟩)
      unfold fetchRecord at hf
      split at hf
      · cases hf
      · split at hf
        · next hv => exact hv.1
        · cases hf
    | some i =>
      rw [hf] at h
      refine .inr (.inr ⟨hp, i, rfl, ?_, h⟩)
      unfold fetchRecord at hf
      split at hf
      · cases hf; rfl
      · split at hf
        · cases hf
        · cases hf; unfold recordOf; split
          · rfl
          · split
            · rfl
            · split <;> rfl

/-- What a record's meaning can do in a phase that is not REFUSED: write a bare record, write the terminator, start a
record with pixels, or move on inside one. -/
theorem exec_record_cases {i : Instr} {s t : State} (hi : i.isRecord) (h : exec i s = .next t) :
    (∃ id tag desc, t = writeBare id tag desc s) ∨
    (i = .recTerminator ∧
      t = { dropWorking (emitChecksum (openRecord idTerminator tagTerminator [] s)) with phase := .post, pos := .postYield }) ∨
    (i.isPixelRecord ∧
      ((s.pos.inRecord = false ∧ ∃ id tag desc elem pix dflt, t = startPixels id tag desc elem pix dflt s) ∨
       (s.pos = .notify ∧ t = notifyWait (fun s => { s with pos := .pixel }) s) ∨
       (s.pos = .pixel ∧ t = pixelAsk s) ∨
       (∃ idx, s.pos = .color idx ∧ t = colorWait pixelFill s))) := by
  have key : ∀ start : State → State, (∃ id tag desc elem pix dflt, start = startPixels id tag desc elem pix dflt) →
      t = pixelRecord start s →
      ((s.pos.inRecord = false ∧ ∃ id tag desc elem pix dflt, t = startPixels id tag desc elem pix dflt s) ∨
       (s.pos = .notify ∧ t = notifyWait (fun s => { s with pos := .pixel }) s) ∨
       (s.pos = .pixel ∧ t = pixelAsk s) ∨
       (∃ idx, s.pos = .color idx ∧ t = colorWait pixelFill s)) := by
    rintro start ⟨id, tag, desc, elem, pix, dflt, rfl⟩ ht
    unfold pixelRecord at ht
    cases hp : s.pos with
    | notify => rw [hp] at ht; exact .inr (.inl ⟨rfl, ht⟩)
    | pixel => rw [hp] at ht; exact .inr (.inr (.inl ⟨rfl, ht⟩))
    | color idx => rw [hp] at ht; exact .inr (.inr (.inr ⟨idx, rfl, ht⟩))
    | _ => rw [hp] at ht; exact .inl ⟨rfl, id, tag, desc, elem, pix, dflt, ht⟩
  cases i with
  | recSingleWire id elem co pix =>
    exact .inr (.inr ⟨rfl, key _ ⟨_, _, _, _, _, _, rfl⟩ (sequencerStep_cases h).2⟩)
  | recClockedData id freq co pix =>
    exact .inr (.inr ⟨rfl, key _ ⟨_, _, _, _, _, _, rfl⟩ (sequencerStep_cases h).2⟩)
  | recClockOnly id freq => exact .inl ⟨id, tagClockOnly, descClockOnly freq, (sequencerStep_cases h).2⟩
  | recUnrecognized id tag => exact .inl ⟨id, tag, [], (sequencerStep_cases h).2⟩
  | recTerminator => simp only [exec, execRecTerminator] at h; exact .inr (.inl ⟨rfl, (sequencerStep_cases h).2⟩)
  | _ => simp [Instr.isRecord] at hi

/-- What a poll of the gap wait can do. -/
theorem gapPoll_cases (s : State) :
    (gapPassed s (reading s) = true ∧ gapPoll s = { now s with phase := .encode, pos := .enter }) ∨
    (gapPassed s (reading s) = false ∧ gapPoll s = window (fun s => s) (emit [.yield] (now s))) := by
  unfold gapPoll
  cases h : gapPassed s (reading s)
  · exact .inr ⟨rfl, by simp⟩
  · exact .inl ⟨rfl, by simp⟩

/-- What a transaction can do that the host issues to an idle machine: one of the commands' bodies, or a refusal. -/
theorem runTransaction_cases {c : List Byte} {s t : State} (hr : s.ready) (h : runTransaction c s = .next t) :
    (∃ entries, decode c = .ok (.cfg entries) ∧ entries.length ≤ s.params.maxCh ∧
      t = { s with channels := entries, configured := true }) ∨
    (∃ bs, t = respond bs s) ∨
    (∃ g, t = { s with minGap := tick s.params g }) ∨
    (∃ speed, decode c = .ok (.beginTx speed) ∧
      t = beginFlushed speed { emit [.flush] s with pos := .beginFlush speed }) ∨
    (t = { emit [.closePort] s with isOpen := false }) ∨
    (s.isOpen ∧ t = { s with phase := .gapWait }) ∨
    (∃ v, t = { s with acc := v }) ∨
    (∃ r, t = raise r s) := by
  unfold runTransaction at h
  cases hd : decode c with
  | error e =>
    rw [hd] at h
    simp only [execBadLength, hostCommand_ready hr, Host.Outcome.next.injEq] at h
    subst h
    refine .inr (.inr (.inr (.inr (.inr (.inr (.inr ?_))))))
    cases e with
    | noOpcode => exact ⟨_, rfl⟩
    | length op => exact ⟨_, rfl⟩
    | cfgLength n => by_cases hm : s.params.maxCh < n.toNat <;> simp only [hm, if_true, if_false] <;> exact ⟨_, rfl⟩
  | ok i =>
    rw [hd] at h
    cases i with
    | cfg entries =>
      simp only [exec, execCfg, hostCommand_ready hr, Host.Outcome.next.injEq] at h
      subst h
      by_cases hm : s.params.maxCh < entries.length
      · simp only [hm, if_true]
        exact .inr (.inr (.inr (.inr (.inr (.inr (.inr ⟨_, rfl⟩))))))
      · simp only [hm, if_false]
        exact .inl ⟨entries, rfl, Nat.not_lt.mp hm, rfl⟩
    | getcfg =>
      simp only [exec, execGetcfg, hostCommand_ready hr, Host.Outcome.next.injEq] at h
      exact .inr (.inl ⟨_, h.symm⟩)
    | setgap g =>
      simp only [exec, execSetgap, hostCommand_ready hr, Host.Outcome.next.injEq] at h
      exact .inr (.inr (.inl ⟨g, h.symm⟩))
    | beginTx speed =>
      simp only [exec, execBegin, hostCommand_ready hr, Host.Outcome.next.injEq] at h
      exact .inr (.inr (.inr (.inl ⟨speed, rfl, h.symm⟩)))
    | endTx =>
      simp only [exec, execEnd, hostCommand_ready hr, Host.Outcome.next.injEq] at h
      exact .inr (.inr (.inr (.inr (.inl h.symm))))
    | render p =>
      simp only [exec, execRender, hostCommand_ready hr, Host.Outcome.next.injEq] at h
      subst h
      by_cases ho : s.isOpen = true
      · rw [if_pos ho]
        exact .inr (.inr (.inr (.inr (.inr (.inl ⟨ho, rfl⟩)))))
      · rw [if_neg ho]
        exact .inr (.inr (.inr (.inr (.inr (.inr (.inr ⟨.closed, rfl⟩))))))
    | crcinit =>
      simp only [exec, execCrcinit, hostCommand_ready hr, Host.Outcome.next.injEq] at h
      exact .inr (.inr (.inr (.inr (.inr (.inr (.inl ⟨_, h.symm⟩))))))
    | crcupd b =>
      simp only [exec, execCrcupd, hostCommand_ready hr, Host.Outcome.next.injEq] at h
      exact .inr (.inr (.inr (.inr (.inr (.inr (.inl ⟨_, h.symm⟩))))))
    | crcload v =>
      simp only [exec, execCrcload, hostCommand_ready hr, Host.Outcome.next.injEq] at h
      exact .inr (.inr (.inr (.inr (.inr (.inr (.inl ⟨_, h.symm⟩))))))
    | crcread =>
      simp only [exec, execCrcread, hostCommand_ready hr, Host.Outcome.next.injEq] at h
      exact .inr (.inl ⟨_, h.symm⟩)
    | crcfinal =>
      simp only [exec, execCrcfinal, hostCommand_ready hr, Host.Outcome.next.injEq] at h
      exact .inr (.inl ⟨_, h.symm⟩)
    | unassigned op rest =>
      simp only [exec, execUnassigned] at h
      exact .inr (.inr (.inr (.inr (.inr (.inr (.inr ⟨_, (Host.Outcome.next.inj (unlessRefused_cases h).2).symm⟩))))))
    | _ => exact absurd (decode_isRecord hd) (by simp [Instr.isRecord])

/-- A transaction issued to a machine that cannot take it up is refused. -/
theorem runTransaction_not_ready {c : List Byte} {s t : State} (hr : s.ready = false) (h : runTransaction c s = .next t) :
    ∃ r, t = raise r s := by
  have key : ∀ body, hostCommand body s = .next t → ∃ r, t = raise r s := by
    intro body h
    rcases hostCommand_cases h with ⟨h1, _⟩ | ⟨_, _, h1⟩
    · rw [hr] at h1; cases h1
    · exact ⟨_, h1⟩
  unfold runTransaction at h
  cases hd : decode c with
  | error e => simp only [hd] at h; exact key _ h
  | ok i =>
    simp only [hd] at h
    by_cases hc : i.isCommand
    · obtain ⟨body, hb⟩ := exec_command hc s
      exact key body (hb ▸ h)
    · have hrec := decode_isRecord hd
      cases i with
      | unassigned op rest =>
        simp only [exec, execUnassigned] at h
        exact ⟨_, (Host.Outcome.next.inj (unlessRefused_cases h).2).symm⟩
      | _ => first | exact absurd rfl hc | cases hrec

/-! ## Runs -/

@[simp] theorem run_zero (s : State) : run 0 s = .next s := rfl

/-- The host's run of this machine is `run`. -/
theorem core_run (n : Nat) (s : State) : Sys2Proof.core.run n s = run n s := by
  induction n generalizing s with
  | zero => rfl
  | succ n ih =>
    cases hs : step s with
    | next t =>
      have h : Sys2Proof.core.step s = .next t := hs
      simp only [Host.Core.run, run, h, hs]
      exact ih t
    | fault r => cases r
    | refused r =>
      have h : Sys2Proof.core.step s = .refused r := hs
      simp only [Host.Core.run, run, h, hs]
      rfl

/-- One step, then the rest of the run. -/
theorem run_succ {n : Nat} {s t : State} (h : step s = .next t) : run (n + 1) s = run n t := by
  simp only [run, h]

/-- A run of at least one step that answers a next state took its first step. -/
theorem run_succ_next {n : Nat} {s t : State} (h : run (n + 1) s = .next t) :
    ∃ u, step s = .next u ∧ run n u = .next t := by
  cases hs : step s with
  | next u => simp only [run, hs] at h; exact ⟨u, rfl, h⟩
  | fault r => simp [run, hs] at h
  | refused r => simp [run, hs] at h

/-- Two runs one after the other. -/
theorem run_add {m : Nat} {s t : State} (n : Nat) (h : run m s = .next t) : run (m + n) s = run n t := by
  induction m generalizing s with
  | zero => cases h; simp
  | succ m ih =>
    obtain ⟨u, hu, hr⟩ := run_succ_next h
    rw [Nat.add_right_comm, run_succ hu]
    exact ih hr

/-- A run's last step. -/
theorem run_succ_last {n : Nat} {s t : State} (h : run (n + 1) s = .next t) :
    ∃ u, run n s = .next u ∧ step u = .next t := by
  induction n generalizing s with
  | zero =>
    obtain ⟨u, hu, hr⟩ := run_succ_next h
    rw [run_zero] at hr
    exact ⟨s, rfl, hu.trans hr⟩
  | succ n ih =>
    obtain ⟨v, hv, hr⟩ := run_succ_next h
    obtain ⟨u, hu, hs⟩ := ih hr
    exact ⟨u, (run_succ hv).trans hu, hs⟩

/-- A state that a step keeps is kept for ever: the form a hang takes (R178, R194). -/
theorem run_of_step_self {s : State} (h : step s = .next s) (n : Nat) : run n s = .next s := by
  induction n with
  | zero => rfl
  | succ n ih => rw [run_succ h]; exact ih

end Sys2Proof.Machine
end

