-- ==== Sys2Proof/Tests/Slice0.lean ====
section
/-! SUPPORT. The package's own tests: well-formedness, decoding of written-out words, small steps with expected values
from the spec's vectors (95_test_vectors.md, or the example of the rule named), and for each obligation with hypotheses
a concrete state and operands that meet them. -/

open Sys2Proof Sys2Proof.Machine

namespace Tests

/-- MAGIC at its default, TIME_W = 32, MAX_CH = 2, MIN_GAP_RESET = 7. -/
def pars : Params := { magic := Config.magicDefault, timeWOver16 := 16, maxChBelow := 1, minGapReset := 7 }

/-- The same with TIME_W = 16. -/
def pars16 : Params := { pars with timeWOver16 := 0 }

def idle : State := State.resetWith pars

/-- An idle machine with environment e. -/
def idleIn (e : Env) : State := { idle with env := e }

/-- A machine inside a render, at a phase and a position, with a registry. -/
def rendering (ph : Phase) (pos : Position) (chs : List Channel) : State :=
  { idle with phase := ph, pos := pos, channels := chs, configured := true, isOpen := true }

/-- Inside a record with pixels: the working registers are set. -/
def inPixels (pos : Position) (ch : Channel) (pixI : U16) : State :=
  { rendering .encode pos [ch] with effElem := effElemOf ch, effPix := effPixOf ch, pixI := pixI, dflt := defaultOf ch,
                                    pbuf := defaultOf ch }

/-- The channel of the scenario S6. -/
def chS6 : Channel := ⟨0, 1, 3, 0xE4, 2, 0, 0⟩
/-- The channel of V-E5. -/
def chE5 : Channel := ⟨1, 3, 3, 0x24, 1, 4, 4000000⟩
/-- The channel of V-E9. -/
def chE9 : Channel := ⟨5, 4, 4, 0x00, 7, 0, 2000000⟩
/-- The channel of V-E20: its second index is 2^32. -/
def chE20 : Channel := ⟨0, 1, 3, 0xE4, 2, 0xFFFFFFFF, 0⟩
/-- The channel of V-E22: five elements and a pixel. -/
def chE22 : Channel := ⟨4, 1, 5, 0xE4, 1, 0, 0⟩
/-- A disabled channel. -/
def chOff : Channel := ⟨1, 1, 0, 0xE4, 5, 0, 0⟩

/-- A field of the next state. -/
def field {α : Type} (f : State → α) : Host.Outcome State Fault Refusal → Option α
  | .next t => some (f t)
  | .fault _ => none
  | .refused _ => none

/-! ## WellFormed refuses an ill-formed term -/

theorem test_wf_cfg_count : (Instr.cfg (List.replicate 256 chS6)).wellFormed = false := by
  simp only [Instr.wellFormed, List.length_replicate]; decide
theorem test_wf_cfg_255 : (Instr.cfg (List.replicate 255 chS6)).wellFormed = true := by
  simp only [Instr.wellFormed, List.length_replicate]; decide
theorem test_wf_recognized_tag : (Instr.recUnrecognized 1 0x03).wellFormed = false := by decide
theorem test_wf_assigned_opcode : (Instr.unassigned 0x06 [0]).wellFormed = false := by decide

/-! ## Every constructor's decoding, from a word written out from R71 to R83 -/

theorem test_decode_cfg :
    decode [0x01, 0x01, 0x01, 0x03, 0x04, 0x24, 0x02, 0x00, 0xAA, 0xBB, 0x02, 0x00, 0x00, 0x00, 0x00, 0x09, 0x3D, 0x00] =
      .ok (.cfg [⟨1, 3, 4, 0x24, 2, 2, 4000000⟩]) := by decide
theorem test_decode_cfg_empty : decode [0x01, 0x00] = .ok (.cfg []) := by decide
theorem test_decode_getcfg : decode [0x02] = .ok .getcfg := by decide
theorem test_decode_setgap : decode [0x03, 0x2C, 0x01, 0x00, 0x00] = .ok (.setgap 300) := by decide
theorem test_decode_begin : decode [0x04, 0x80, 0x84, 0x1E, 0x00] = .ok (.beginTx 2000000) := by decide
theorem test_decode_end : decode [0x05] = .ok .endTx := by decide
theorem test_decode_render : decode [0x06, 0x2C, 0x01] = .ok (.render 300) := by decide
theorem test_decode_crcinit : decode [0x10] = .ok .crcinit := by decide
theorem test_decode_crcupd : decode [0x11, 0xAB] = .ok (.crcupd 0xAB) := by decide
theorem test_decode_crcload : decode [0x12, 0x78, 0x56, 0x34, 0x12] = .ok (.crcload 0x12345678) := by decide
theorem test_decode_crcread : decode [0x13] = .ok .crcread := by decide
theorem test_decode_crcfinal : decode [0x14] = .ok .crcfinal := by decide
theorem test_decode_unassigned : decode [0x15, 0x00] = .ok (.unassigned 0x15 [0x00]) := by decide
theorem test_decode_recSingleWire :
    decodeRecord Config.magicDefault [0x55, 0x50, 0x58, 0x4C, 0x00, 0x01, 0x03, 0xE4, 0x02, 0x01, 0x0A] =
      .ok (.recSingleWire 0x00 3 0xE4 0x0102, [0x0A]) := by decide
theorem test_decode_recTerminator :
    decodeRecord Config.magicDefault [0x55, 0x50, 0x58, 0x4C, 0xFF, 0x02, 0x9B] = .ok (.recTerminator, [0x9B]) := by decide
theorem test_decode_recClockedData :
    decodeRecord Config.magicDefault [0x55, 0x50, 0x58, 0x4C, 0x01, 0x03, 0x00, 0x09, 0x3D, 0x00, 0x24, 0x01, 0x00, 0x11] =
      .ok (.recClockedData 0x01 4000000 0x24 1, [0x11]) := by decide
theorem test_decode_recClockOnly :
    decodeRecord Config.magicDefault [0x55, 0x50, 0x58, 0x4C, 0x05, 0x04, 0x80, 0x84, 0x1E, 0x00, 0xB9] =
      .ok (.recClockOnly 0x05 2000000, [0xB9]) := by decide
theorem test_decode_recUnrecognized :
    decodeRecord Config.magicDefault [0x55, 0x50, 0x58, 0x4C, 0x09, 0x02, 0xA0] = .ok (.recUnrecognized 0x09 0x02, [0xA0]) := by
  decide
/-- V-R6 to V-R8: a CFG without a count byte, with one byte too few, with one too many. -/
theorem test_decode_cfg_lengths :
    decode [0x01] = .error (.length 0x01) ∧
    decode (0x01 :: 0x01 :: List.replicate 15 0) = .error (.cfgLength 0x01) ∧
    decode (0x01 :: 0x01 :: List.replicate 17 0) = .error (.cfgLength 0x01) := by decide
/-- V-D11. -/
theorem test_decode_render_short : decode [0x06, 0x00] = .error (.length 0x06) := by decide
/-- Bits 7:6 of a clocked-data colour-order byte are 0 on the wire (R74, R78). -/
theorem test_decode_colour_bits :
    decodeRecord Config.magicDefault [0x55, 0x50, 0x58, 0x4C, 0x01, 0x03, 0x00, 0x09, 0x3D, 0x00, 0xE4, 0x01, 0x00] =
      .error .colourBits := by decide
/-- The opcode table's numbering: RENDER 300 as one 24-bit word. -/
theorem test_table_render : decodeTableWord 24 0x012C06 = some (.render 300) := by decide
theorem test_table_record : decodeTableWord 48 0x01074C585055 = some (.recSingleWire 7 0 0 0) := by decide

/-! ## Operands and the checksum engine (95, 2.1 and 2.2) -/

theorem test_colour_order : coPack 1 0 2 3 = 0xE1 ∧ coUnpack 0x1B = (3, 2, 1, 0) ∧ co3 0xFF = 0x3F := by decide
theorem test_updByte : updByte 0xFFFFFFFF 0x00 = 0x2DFD1072 ∧ updByte 0x12345678 0xAB = 0x1FC8B738 := by decide
theorem test_crc_check : crc32 [0x31, 0x32, 0x33, 0x34, 0x35, 0x36, 0x37, 0x38, 0x39] = 0xCBF43926 := by decide +kernel
theorem test_terminator :
    terminatorBytes Config.magicDefault = [0x55, 0x50, 0x58, 0x4C, 0xFF, 0x02, 0x9B, 0x38, 0x81, 0xDF] := by decide +kernel
/-- V-E5: bytes 0 to 2 enabled, byte 3 the default 0xFF, ELEM ignored. -/
theorem test_record_E5 :
    recordBytes Config.magicDefault chE5 [⟨⟨0x11, 0x22, 0x33, 0x44⟩, 0x7⟩] =
      [0x55, 0x50, 0x58, 0x4C, 0x01, 0x03, 0x00, 0x09, 0x3D, 0x00, 0x24, 0x01, 0x00, 0x11, 0x22, 0x33, 0xFF, 0x6C, 0x86,
       0x9B, 0xE6] := by decide +kernel
/-- V-E9: a clock-only record. -/
theorem test_record_E9 :
    recordBytes Config.magicDefault chE9 [] =
      [0x55, 0x50, 0x58, 0x4C, 0x05, 0x04, 0x80, 0x84, 0x1E, 0x00, 0xB9, 0x9E, 0xE4, 0xB1] := by decide +kernel
/-- The examples of R175 and of 95, 2.5: a wrap, and a reading before LAST_DONE. -/
theorem test_elapsed :
    elapsed pars 0x0000002C 0xFFFFFF00 = 300 ∧ elapsed pars 0x513 0x3E8 = 299 ∧ elapsed pars 900 1000 = 4294967196 ∧
    elapsed pars16 0x0010 0xFFF0 = 0x20 := by decide
/-- R88, R89 on tokens. -/
theorem test_assemble :
    assemble "CFG" [.group [0, 1, 3, 0xE4, 2, 0]] = some (.cfg [chS6]) ∧ assemble "CRCUPD" [.num 256] = none ∧
    crcstr "12" = [.crcupd 0x31, .crcupd 0x32] ∧ checksum [0x61] = [.crcinit, .crcupd 0x61, .crcfinal] := by decide

/-! ## One step each -/

/-- V-R3. -/
theorem test_cfg : field (fun t => (t.configured, t.channels, t.trace)) (exec (.cfg [chS6]) idle) = some (true, [chS6], []) := by
  decide
/-- V-R9. -/
theorem test_cfg_maxch : field (·.refused) (exec (.cfg [chS6, chS6, chS6]) idle) = some (some .maxCh) := by decide
/-- V-R4. -/
theorem test_getcfg :
    field (·.trace) (exec .getcfg { idle with configured := true, channels := [chS6] }) =
      some [.response [0x01, 0x01, 0x00, 0x01, 0x03, 0xE4, 0x02, 0, 0, 0, 0, 0, 0, 0, 0, 0, 0, 0]] := by decide
/-- R172's vector at TIME_W = 16. -/
theorem test_setgap : field (·.minGap) (exec (.setgap 0x00012345) (State.resetWith pars16)) = some 0x2345 := by decide
/-- V-D1. -/
theorem test_begin :
    field (fun t => (t.isOpen, t.speed, t.lastDone, t.trace))
      (exec (.beginTx 2000000) (idleIn { Env.silent with flushAcks := 1, time := [100] })) =
      some (true, 2000000, 100, [.flush, .openPort 2000000, .time 100]) := by decide
/-- V-D4. -/
theorem test_end : field (fun t => (t.isOpen, t.trace)) (exec .endTx idle) = some (false, [.closePort]) := by decide
/-- V-D5. -/
theorem test_render_closed : field (·.refused) (exec (.render 0) idle) = some (some .closed) := by decide
theorem test_render : field (·.phase) (exec (.render 2) { idle with isOpen := true }) = some .gapWait := by decide
theorem test_crcinit : field (·.acc) (exec .crcinit { idle with acc := 5 }) = some 0xFFFFFFFF := by decide
/-- R108's example. -/
theorem test_crcupd : field (·.acc) (exec (.crcupd 0xFF) idle) = some 0x00FFFFFF := by decide
theorem test_crcload : field (·.acc) (exec (.crcload 0x12345678) idle) = some 0x12345678 := by decide
/-- R110's example. -/
theorem test_crcread :
    field (·.trace) (exec .crcread { idle with acc := 0x340BC6D9 }) = some [.response [0xD9, 0xC6, 0x0B, 0x34]] := by decide
/-- R111's example; ACC is kept. -/
theorem test_crcfinal :
    field (fun t => (t.trace, t.acc)) (exec .crcfinal { idle with acc := 0x340BC6D9 }) =
      some ([.response [0x26, 0x39, 0xF4, 0xCB]], 0x340BC6D9) := by decide
/-- V-D12. -/
theorem test_unassigned : field (·.refused) (exec (.unassigned 0x07 []) idle) = some (some .opcode) := by decide
/-- S6: the record's start writes its header and descriptor, then notifies. -/
theorem test_recSingleWire :
    field (·.trace) (step (rendering .encode .visit [chS6])) =
      some ([0x55, 0x50, 0x58, 0x4C, 0x00, 0x01, 0x03, 0xE4, 0x02, 0x00].map .write ++
        [.switch 0x00 0x01 [0x03, 0xE4, 0x02, 0x00]]) := by decide +kernel
/-- V-E20: the second pixel's index is 2^32. -/
theorem test_index : field (·.refused) (step (inPixels .pixel chE20 1)) = some (some .index) := by decide
/-- V-E5: the pixel's four bytes. -/
theorem test_recClockedData :
    field (fun t => wire t.trace)
      (step { inPixels (.color 4) chE5 0 with env := { Env.silent with colors := [⟨⟨0x11, 0x22, 0x33, 0x44⟩, 0x7⟩] } }) =
      some [0x11, 0x22, 0x33, 0xFF] := by decide +kernel
/-- V-E9. -/
theorem test_recClockOnly :
    field (fun t => (t.trace, t.chIdx)) (step (rendering .encode .visit [chE9])) =
      some (([0x55, 0x50, 0x58, 0x4C, 0x05, 0x04, 0x80, 0x84, 0x1E, 0x00, 0xB9, 0x9E, 0xE4, 0xB1]).map .write, 1) := by decide +kernel
/-- V-E11. -/
theorem test_recUnrecognized :
    field (fun t => wire t.trace) (step (rendering .encode .visit [⟨9, 2, 3, 0xE4, 4, 0, 0⟩])) =
      some [0x55, 0x50, 0x58, 0x4C, 0x09, 0x02, 0xA0, 0x7E, 0x67, 0x9D] := by decide +kernel
/-- V-E2, and the raw accumulator of R110. -/
theorem test_recTerminator :
    field (fun t => (t.acc, t.phase, wire t.trace)) (step (rendering .encode .visit [])) =
      some (0x207EC764, .post, [0x55, 0x50, 0x58, 0x4C, 0xFF, 0x02, 0x9B, 0x38, 0x81, 0xDF]) := by decide +kernel
/-- V-R12: a command from the colour source. -/
theorem test_reentry :
    field (·.refused) (step { inPixels (.color 0) chS6 0 with env := { Env.silent with intruders := [some [0x02]] } }) =
      some (some .busy) := by decide
/-- R220: a reset when three bytes of V-E9's record are written; R42, C10: a reset of a refused machine. -/
theorem test_reset :
    field (fun t => (t.phase, t.isOpen, wire t.trace))
      (step { rendering .encode .visit [chE9] with env := { Env.silent with resetLine := [some 3] } }) =
      some (.idle, false, [0x55, 0x50, 0x58]) ∧
    field (fun t => (t.phase, t.refused))
      (step { raise .busy idle with env := { Env.silent with resetLine := [none, some 0] } }) = some (.idle, none) := by
  decide +kernel
/-- What withFetchWord places is what the next step runs (R108's example, V-E10). -/
theorem test_fetch_word :
    field (·.acc) (step (idle.withFetchWord 16 0xFF11)) = some 0x00FFFFFF ∧
    field (fun t => wire t.trace) (step (idle.withFetchWord 48 0x09024C585055)) =
      some [0x55, 0x50, 0x58, 0x4C, 0x02, 0x09, 0xE3, 0x7E, 0x41, 0xE9] := by decide +kernel

/-! ## Witnesses: a concrete state and operands that meet an obligation's hypotheses -/

theorem witness_CrcinitSetsSeed : idle.ready := by decide
theorem witness_CrcupdFeedsOneByte : idle.ready := by decide
theorem witness_CrcloadSetsAccumulator : idle.ready := by decide
theorem witness_CrcreadReturnsRawAccumulator : idle.ready := by decide
theorem witness_CrcfinalReturnsFinalized : idle.ready := by decide
/-- At the boundary: n = MAX_CH. -/
theorem witness_CfgReplacesRegistry : idle.ready ∧ [chS6, chE5].length = idle.params.maxCh := by decide
/-- At the boundary: n = MAX_CH + 1. -/
theorem witness_CfgAboveMaxChIsRefused : idle.ready ∧ [chS6, chE5, chOff].length = idle.params.maxCh + 1 := by decide
theorem witness_GetcfgReturnsStoredRegistry : idle.ready := by decide
theorem witness_EntryKeepsAllButReservedBytes : (List.replicate 16 (0xFF : Byte)).length = 16 := by decide
theorem witness_BeginOpensTransport :
    let s := idleIn { Env.silent with flushAcks := 1, time := [100] }
    s.ready ∧ s.env.intruders = [] ∧ s.env.flushAcks = 0 + 1 := by decide
theorem witness_BeginHangsInItsFlush : idle.ready ∧ idle.Quiet ∧ idle.env.flushAcks = 0 := ⟨by decide, ⟨rfl, rfl⟩, rfl⟩
theorem witness_EndClosesTransport : idle.ready := by decide
theorem witness_SetgapKeepsLowTimeBits : idle.ready ∧ idle.params.timeW = 32 := by decide
theorem witness_RenderStartsGapWait : ({ idle with isOpen := true } : State).ready ∧ ({ idle with isOpen := true } : State).isOpen := by
  decide
theorem witness_RenderWhileClosedIsRefused : idle.ready ∧ idle.isOpen = false := by decide
/-- Both outcomes of the poll, at the boundary: elapsed = MIN_GAP = 7, and 6. -/
theorem witness_GapWaitPoll :
    let s : State := { rendering .gapWait .rest [] with env := { Env.silent with time := [7] } }
    let u : State := { rendering .gapWait .rest [] with env := { Env.silent with time := [6] } }
    (s.phase = .gapWait ∧ s.Quiet ∧ s.minGap ≤ elapsed s.params (reading s) s.lastDone) ∧
    (u.phase = .gapWait ∧ u.Quiet ∧ ¬ u.minGap ≤ elapsed u.params (reading u) u.lastDone) :=
  ⟨⟨rfl, ⟨rfl, rfl⟩, by decide⟩, rfl, ⟨rfl, rfl⟩, by decide⟩
/-- Both clauses, the largest reading among them: equal readings, and a wrap. -/
theorem witness_ElapsedIsModularDifference :
    ((0xFFFF : U32).toNat < 2 ^ pars16.timeW ∧ (0xFFFF : U32).toNat ≤ (0xFFFF : U32).toNat) ∧
    ((0 : U32).toNat < 2 ^ pars16.timeW ∧ ¬ (0xFFFF : U32).toNat ≤ (0 : U32).toNat) := by decide
theorem witness_StuckClockPollsForEver :
    let s := rendering .gapWait .rest []
    s.phase = .gapWait ∧ s.Quiet ∧ s.env.time = [] ∧ elapsed s.params (reading s) s.lastDone < s.minGap :=
  ⟨rfl, ⟨rfl, rfl⟩, rfl, by decide⟩
theorem witness_UnconfiguredRenderIsNoOp :
    let s : State := { rendering .gapWait .rest [] with configured := false, env := { Env.silent with time := [7] } }
    s.phase = .gapWait ∧ s.Quiet ∧ s.configured = false ∧ s.minGap ≤ elapsed s.params (reading s) s.lastDone :=
  ⟨rfl, ⟨rfl, rfl⟩, rfl, by decide⟩
theorem witness_PostSequenceRecordsCompletion :
    let s : State := { rendering .post .postYield [chS6] with env := { Env.silent with flushAcks := 1 } }
    s.phase = .post ∧ s.pos = .postYield ∧ s.Quiet ∧ s.env.flushAcks = 0 + 1 := ⟨rfl, rfl, ⟨rfl, rfl⟩, rfl⟩
theorem witness_UncompletedFlushHangs :
    let s := rendering .post .postFlush [chS6]
    s.phase = .post ∧ s.pos = .postFlush ∧ s.Quiet ∧ s.env.flushAcks = 0 := ⟨rfl, rfl, ⟨rfl, rfl⟩, rfl⟩
theorem witness_SingleWireRecordStarts :
    (rendering .encode .visit [chS6]).phase ≠ .refused ∧ (rendering .encode .visit [chS6]).pos.inRecord = false := by decide
theorem witness_ClockedDataRecordStarts :
    (rendering .encode .visit [chE5]).phase ≠ .refused ∧ (rendering .encode .visit [chE5]).pos.inRecord = false := by decide
theorem witness_ClockOnlyRecordIsWritten : (rendering .encode .visit [chE9]).phase ≠ .refused := by decide
theorem witness_UnrecognizedRecordIsWritten : (rendering .encode .visit [⟨9, 2, 3, 0xE4, 4, 0, 0⟩]).phase ≠ .refused := by decide
theorem witness_TerminatorIsWritten : (rendering .encode .visit []).phase ≠ .refused := by decide
/-- The call that returns, and the call that does not. -/
theorem witness_NotifierReturnStartsPixels :
    let s : State := inPixels .notify chS6 0
    (recordOf chS6).isPixelRecord ∧ s.phase ≠ .refused ∧ s.pos = .notify ∧ s.env.intruders = [] ∧ s.env.notifyAcks = 0 ∧
    ({ s with env := { Env.silent with notifyAcks := 1 } } : State).env.notifyAcks = 0 + 1 := by decide
/-- The three outcomes, at the boundaries: index 2^32, and 2^32 - 1; five elements, and three. -/
theorem witness_PixelTestsThenAsksColour :
    (recordOf chE20).isPixelRecord ∧
    (let s := inPixels .pixel chE20 1
     s.phase ≠ .refused ∧ s.pos = .pixel ∧ s.channels[s.chIdx]? = some chE20 ∧ s.pixI < s.effPix ∧
     chE20.start.toNat + s.pixI.toNat = 0x100000000) ∧
    (let s := inPixels .pixel chE20 0
     s.phase ≠ .refused ∧ s.pos = .pixel ∧ s.channels[s.chIdx]? = some chE20 ∧ s.pixI < s.effPix ∧
     chE20.start.toNat + s.pixI.toNat = 0xFFFFFFFF ∧ s.effElem.toNat ≤ 4) ∧
    (let s := inPixels .pixel chE22 0
     s.phase ≠ .refused ∧ s.pos = .pixel ∧ s.channels[s.chIdx]? = some chE22 ∧ s.pixI < s.effPix ∧
     chE22.start.toNat + s.pixI.toNat ≤ 0xFFFFFFFF ∧ s.effElem.toNat = 5) := by decide
theorem witness_ColourAnswerIsMergedAndWritten :
    let s : State := { inPixels (.color 4) chE5 0 with env := { Env.silent with colors := [⟨⟨1, 2, 3, 4⟩, 0x7⟩] } }
    (recordOf chE5).isPixelRecord ∧ s.phase ≠ .refused ∧ s.pos = .color 4 ∧ s.env.intruders = [] ∧
    s.env.colors = ⟨⟨1, 2, 3, 4⟩, 0x7⟩ :: [] ∧ s.pbuf = s.dflt := by decide
/-- At the boundary: PIX_I = EFF_PIX. -/
theorem witness_RecordEndsWithChecksum :
    let s := inPixels .pixel chS6 2
    (recordOf chS6).isPixelRecord ∧ s.phase ≠ .refused ∧ s.pos = .pixel ∧ s.effPix ≤ s.pixI ∧ s.pixI = s.effPix := by decide
theorem witness_ZeroElementAbortsSend :
    let s := rendering .encode .visit [chOff]
    s.phase = .encode ∧ s.pos = .visit ∧ s.env.resetLine = [] ∧ s.channels[s.chIdx]? = some chOff ∧ chOff.elem = 0 := by decide
/-- An entry of each type, and no entry. -/
theorem witness_EncodeRunsTheRecordOfTheType :
    (∀ ch ∈ [chS6, chE5, chE9, ⟨9, 2, 3, 0xE4, 4, 0, 0⟩],
      let s := rendering .encode .visit [ch]
      s.phase = .encode ∧ s.pos ≠ .enter ∧ s.env.resetLine = [] ∧ s.channels[s.chIdx]? = some ch ∧ ch.elem ≠ 0) ∧
    (let s := rendering .encode .visit []
     s.phase = .encode ∧ s.pos ≠ .enter ∧ s.env.resetLine = [] ∧ s.channels[s.chIdx]? = none) := by decide
/-- A busy state of each phase; a command; and what a transaction of each kind meets: an assigned opcode of a wrong length,
an unassigned opcode, no byte at all. -/
theorem witness_CommandWhileBusyIsRefused :
    Instr.getcfg.isCommand ∧ (rendering .encode .visit [chS6]).busy ∧ (rendering .gapWait .rest []).busy ∧
    (rendering .post .postFlush []).busy ∧
    intrusionReason [0x06] = .busy ∧ intrusionReason [0x07] = .opcode ∧ intrusionReason [] = .busy := by decide
theorem witness_UnassignedOpcodeIsRefused : idle.phase ≠ .refused ∧ (rendering .post .postFlush []).phase ≠ .refused := by decide
theorem witness_DecodeAcceptsExactLength : assignedOpcode 0x01 ∧ assignedOpcode 0x14 := by decide
/-- An error of each kind. -/
theorem witness_WrongLengthIsRefused :
    ∀ c ∈ [([], DecodeError.noOpcode), ([0x06, 0x00], .length 0x06), ([0x01, 0x03], .cfgLength 0x03), ([0x01, 0x02], .cfgLength 0x02)],
      let s := idleIn { Env.silent with host := [c.1] }
      s.ready ∧ s.env.resetLine = [] ∧ s.env.host = c.1 :: [] ∧ decode c.1 = .error c.2 := by decide
/-- A place of each kind: the notifier's call, the colour source's, a flush of the post-sequence and of a BEGIN, the
yield of a failed poll, the yield of the post-sequence. -/
theorem witness_CommandDuringACommandIsRefused :
    let e : Env := { Env.silent with intruders := [some [0x02]] }
    (∀ pos ∈ [Position.notify, .color 0],
      let s : State := { inPixels pos chS6 0 with env := e }
      s.env.resetLine = [] ∧ s.env.intruders = some [0x02] :: [] ∧ s.phase = .encode ∧ s.pos = pos ∧
      s.channels[s.chIdx]? = some chS6 ∧ hasPixels chS6) ∧
    (∀ x ∈ [(Phase.post, Position.postFlush), (.idle, .beginFlush 9), (.post, .postYield)],
      let s : State := { rendering x.1 x.2 [] with env := e }
      s.env.resetLine = [] ∧ s.env.intruders = some [0x02] :: [] ∧ s.phase = x.1 ∧ s.pos = x.2) ∧
    (let s : State := { rendering .gapWait .rest [] with env := e }
     s.env.resetLine = [] ∧ s.env.intruders = some [0x02] :: [] ∧ s.phase = .gapWait ∧
     elapsed s.params (reading s) s.lastDone < s.minGap) := by decide
/-- A refused machine with no reset sample, and one whose samples show no reset. -/
theorem witness_RefusalIsFinal :
    let s := raise .busy idle
    let u : State := { s with env := { Env.silent with resetLine := [none, none] } }
    (s.phase = .refused ∧ ∀ r ∈ s.env.resetLine, r = none) ∧ (u.phase = .refused ∧ ∀ r ∈ u.env.resetLine, r = none) := by
  decide
/-- A reset at the start of a step; inside one, at its first event and past its last; and after a refusal. -/
theorem witness_ResetAbandonsWhatRuns :
    let at' (k : Nat) : State := { rendering .encode .visit [chE9] with env := { Env.silent with resetLine := [some k] } }
    let u : State := { raise .busy idle with env := { Env.silent with resetLine := [none] ++ some 3 :: [] } }
    ((at' 0).phase ≠ .refused ∧ (at' 0).env.resetLine = some 0 :: []) ∧
    ((at' 1).phase ≠ .refused ∧ (at' 1).env.resetLine = some (0 + 1) :: []) ∧
    ((at' 15).phase ≠ .refused ∧ (at' 15).env.resetLine = some (14 + 1) :: []) ∧
    (u.phase = .refused ∧ (∀ r ∈ [(none : Option Nat)], r = none) ∧ u.env.resetLine = [none] ++ some 3 :: []) := by decide
/-- An idle machine with no transaction, and one with a CRCUPD waiting. -/
theorem witness_StepRunsDecodedCommand :
    (idle.ready ∧ idle.env.resetLine = [] ∧ idle.env.host = []) ∧
    (let s := idleIn { Env.silent with host := [[0x11, 0xAB]] }
     s.ready ∧ s.env.resetLine = [] ∧ s.env.host = [0x11, 0xAB] :: [] ∧ decode [0x11, 0xAB] = .ok (.crcupd 0xAB)) := by decide
theorem witness_RenderKeepsConfiguration :
    let s := rendering .encode .visit [chE9]
    s.busy ∧ s.env.resetLine = [] ∧ ∃ t, step s = .next t := ⟨by decide, rfl, _, rfl⟩
theorem witness_EncodeNeverYields :
    (rendering .encode .visit [chE9]).phase = .encode ∧ ∃ t, step (rendering .encode .visit [chE9]) = .next t := ⟨rfl, _, rfl⟩
/-- A step in ENCODE, and one out of it. -/
theorem witness_OnlyEncodeWritesTheWire :
    (∃ t, step (rendering .encode .visit [chE9]) = .next t) ∧
    (∃ t, step (rendering .post .postYield []) = .next t) ∧ (rendering .post .postYield []).phase ≠ .encode :=
  ⟨⟨_, rfl⟩, ⟨_, rfl⟩, by decide⟩
/-- The end of a completed render; a BEGIN whose flush is complete; a BEGIN from the host. -/
theorem witness_LastDoneHasTwoWriters :
    ∀ s ∈ [({ rendering .post .postFlush [] with env := { Env.silent with flushAcks := 1, time := [9] } } : State),
           { idle with pos := .beginFlush 5, env := { Env.silent with flushAcks := 1, time := [9] } },
           idleIn { Env.silent with host := [[0x04, 5, 0, 0, 0]], flushAcks := 1, time := [9] }],
      s.env.resetLine = [] ∧ s.lastDone = 0 ∧ field (·.lastDone) (step s) = some 9 := by decide
/-- ELEM 4, at the boundary; and a channel without pixels, whose ELEM is free. -/
theorem witness_RecordLengths :
    let ch : Channel := ⟨3, 1, 4, 0xE4, 1, 10, 0⟩
    ([⟨⟨1, 2, 3, 4⟩, 0x5⟩] : List ColorAnswer).length = (effPixOf ch).toNat ∧ effPixOf ch ≠ 0 ∧ (effElemOf ch).toNat ≤ 4 ∧
    ([] : List ColorAnswer).length = (effPixOf chE9).toNat := by decide

/-- The answers of the scenario S6. -/
def answersS6 : List ColorAnswer := [⟨⟨10, 20, 30, 0⟩, 0xF⟩, ⟨⟨1, 2, 3, 0⟩, 0xF⟩]

theorem sendable_chS6 : Sendable chS6 := ⟨by decide, fun _ => by decide, fun _ => by decide⟩

theorem witness_FrameByteCount :
    (∀ ch ∈ [chS6], Sendable ch) ∧ answersS6.length = totalPixels [chS6] ∧ chS6.typ = 0x01 ∧ chS6.elem = 3 ∧
    answersS6.length = chS6.pix.toNat := ⟨by simp [sendable_chS6], by decide, rfl, rfl, by decide⟩
theorem witness_CommandRoundTrip :
    (Instr.cfg [chS6, chE5]).wellFormed ∧ (Instr.cfg [chS6, chE5]).isRecord = false ∧
    (Instr.unassigned 0x00 [1]).wellFormed ∧ (Instr.unassigned 0x00 [1]).isRecord = false := by decide
/-- A record of each outcome: one that reads back, and the one that reads as a terminator. -/
theorem witness_RecordRoundTrip :
    (Instr.recClockedData 1 4000000 0x3F 0xFFFF).wellFormed ∧ (Instr.recClockedData 1 4000000 0x3F 0xFFFF).isRecord ∧
    (Instr.recUnrecognized 0xFF 0x02).wellFormed ∧ (Instr.recUnrecognized 0xFF 0x02).isRecord := by decide

/-- A step that answers a next state. -/
theorem exists_next {s : State} (h : (field (fun _ => ()) (step s)).isSome) : ∃ t, step s = .next t := by
  cases hs : step s with
  | next t => exact ⟨t, rfl⟩
  | fault r => rw [hs] at h; cases h
  | refused r => rw [hs] at h; cases h

/-- A state in a render meets the invariant and steps: the scenario S6's machine at the start of its channel's pass. -/
theorem witness_StepKeepsTheInvariant :
    (rendering .encode .visit [chS6]).Inv ∧ ∃ t, step (rendering .encode .visit [chS6]) = .next t := by
  refine ⟨⟨by decide, by decide, by decide, by decide, by decide, by decide, by decide, fun _ _ => by decide, ?_, ?_⟩,
    exists_next (by decide)⟩
  · intro _ h; cases h
  · intro _ _ h; cases h

/-- A render whose second step is a write: the gap passes at once, ENCODE starts, the terminator is written. -/
theorem witness_NoWriteBeforeTheGapHasPassed :
    let s : State := { rendering .gapWait .rest [] with env := { Env.silent with time := [7] } }
    s.phase = .gapWait ∧ (field (fun t => t.trace.length) (run 3 s)).isSome ∧
    (∀ m ∈ [0, 1, 2], field (·.busy) (run m s) = some true) ∧
    field (fun t => t.trace.take 2) (run 3 s) = some ([.time 7] ++ .write 0x55 :: []) := by decide

/-- The environment that answers every call of the scenario S6. -/
def envS6 : Env := { Env.silent with colors := answersS6, notifyAcks := 1 }

theorem witness_EncodeWritesTheFrame :
    let s : State := { rendering .encode .enter [chS6] with env := envS6 }
    s.phase = .encode ∧ s.pos = .enter ∧ s.configured ∧ s.Quiet ∧ (∀ ch ∈ s.channels, Sendable ch) ∧
    answersS6.length = totalPixels s.channels ∧ s.env.colors = answersS6 ++ [] ∧
    s.env.notifyAcks = totalSwitches s.channels + 0 :=
  ⟨rfl, rfl, rfl, ⟨rfl, rfl⟩, by intro ch h; simp [rendering] at h; rw [h]; exact sendable_chS6, by decide, by decide, by decide⟩
/-- The scenario S7, whose last record before the abort is chS6's; and a list whose first channel is disabled. -/
theorem witness_EncodeTruncatesAtDisabledChannel :
    (let s : State := { rendering .encode .enter [chS6, chOff] with env := envS6 }
     s.phase = .encode ∧ s.pos = .enter ∧ s.configured ∧ s.Quiet ∧ s.channels = [chS6] ++ chOff :: [] ∧ chOff.elem = 0 ∧
     (∀ ch ∈ [chS6], Sendable ch) ∧ answersS6.length = totalPixels [chS6] ∧ s.env.colors = answersS6 ++ [] ∧
     s.env.notifyAcks = totalSwitches [chS6] + 0 ∧ [chS6] = [] ++ [chS6]) ∧
    (rendering .encode .enter [chOff, chS6]).channels = [] ++ chOff :: [chS6] :=
  ⟨⟨rfl, rfl, rfl, ⟨rfl, rfl⟩, rfl, rfl, by simp [sendable_chS6], by decide, by decide, by decide, rfl⟩, rfl⟩

end Tests
end

/-! SUPPORT. What the sequencer's moves do, said once: the record rows on the entry they stand for, the moves of ENCODE,
the registers a move keeps and the events it appends. -/

namespace Sys2Proof.Machine

open Host (Outcome)

/-! ## The record rows -/

/-- Feeding two buffers one after the other is feeding their concatenation (R105). -/
theorem upd_append (st : U32) (a b : List Byte) : upd st (a ++ b) = upd (upd st a) b := by
  induction a generalizing st with
  | nil => rfl
  | cons x a ih => exact ih _

/-- A record opens with its header and descriptor on the wire, and with their checksum state in ACC. -/
theorem openRecord_eq (id tag : Byte) (desc : List Byte) (s : State) :
    openRecord id tag desc s =
      emit ((header s.params.magic id tag ++ desc).map .write)
        { s with acc := upd seed (header s.params.magic id tag ++ desc) } := by
  simp [openRecord, emitC, emit, upd_append]

/-- The start of the record of a channel with pixels (R137, R138). -/
def startChannel (ch : Channel) : State → State :=
  startPixels ch.id ch.typ (descriptorOf ch) (effElemOf ch) ch.pix (defaultOf ch)

/-- The record row of a registry entry is the entry's own record: with pixels, or bare (R136). -/
theorem exec_recordOf (ch : Channel) {s : State} (h : s.phase ≠ .refused) :
    exec (recordOf ch) s = .next
      (if hasPixels ch then pixelRecord (startChannel ch) s else writeBare ch.id ch.typ (descriptorOf ch) s) := by
  unfold recordOf
  split
  · next h1 =>
    simp [exec, execRecSingleWire, sequencerStep_next h, startChannel, hasPixels, descriptorOf, effElemOf, defaultOf, h1]
  split
  · next h3 =>
    simp [exec, execRecClockedData, sequencerStep_next h, startChannel, hasPixels, descriptorOf, effElemOf, defaultOf, h3]
  split
  · next h4 => simp [exec, execRecClockOnly, sequencerStep_next h, hasPixels, descriptorOf, h4]
  · next h1 h3 h4 => simp [exec, execRecUnrecognized, sequencerStep_next h, hasPixels, descriptorOf, h1, h3, h4]

/-- The state after the terminator (R146): ENCODE is DONE, and the post-sequence begins. -/
def writeTerminator (s : State) : State :=
  { dropWorking (emitChecksum (openRecord idTerminator tagTerminator [] s)) with phase := .post, pos := .postYield }

theorem exec_recTerminator {s : State} (h : s.phase ≠ .refused) : exec .recTerminator s = .next (writeTerminator s) := by
  simp only [exec, execRecTerminator, sequencerStep_next h, writeTerminator]

/-- Which record ENCODE takes: the terminator past the last entry, or the record of the entry CH_IDX is at, whose ELEM is
not 0 at the start of its pass (R132, R133). -/
theorem fetchRecord_some {s : State} {i : Instr} (h : fetchRecord s = some i) :
    (s.channels[s.chIdx]? = none ∧ i = .recTerminator) ∨
    ∃ ch, s.channels[s.chIdx]? = some ch ∧ (s.pos = .visit → ch.elem ≠ 0) ∧ i = recordOf ch := by
  unfold fetchRecord at h
  cases hc : s.channels[s.chIdx]? with
  | none => simp only [hc] at h; exact .inl ⟨rfl, (Option.some.inj h).symm⟩
  | some ch =>
    simp only [hc] at h
    split at h
    · cases h
    · next hn => exact .inr ⟨ch, rfl, fun hv he => hn ⟨hv, he⟩, (Option.some.inj h).symm⟩

/-! ## The moves of ENCODE -/

/-- The moves of ENCODE (R130), each with the position it is made at and the entry it is made for. -/
inductive EncodeMove (s : State) : State → Prop
  | enter (hpos : s.pos = .enter) : EncodeMove s (encodeEnter s)
  | abort (hpos : s.pos = .visit) : EncodeMove s (toIdle (dropWorking s))
  | terminator (hpos : s.pos ≠ .enter) (hend : s.channels[s.chIdx]? = none) : EncodeMove s (writeTerminator s)
  | bare {ch : Channel} (hpos : s.pos ≠ .enter) (hch : s.channels[s.chIdx]? = some ch) (hpix : hasPixels ch = false) :
      EncodeMove s (writeBare ch.id ch.typ (descriptorOf ch) s)
  | start {ch : Channel} (hpos : s.pos ≠ .enter) (hout : s.pos.inRecord = false) (hch : s.channels[s.chIdx]? = some ch)
      (helem : s.pos = .visit → ch.elem ≠ 0) (hpix : hasPixels ch = true) : EncodeMove s (startChannel ch s)
  | notify (hpos : s.pos = .notify) : EncodeMove s (notifyWait (fun u => { u with pos := .pixel }) s)
  | ask (hpos : s.pos = .pixel) : EncodeMove s (pixelAsk s)
  | fill {idx : U32} (hpos : s.pos = .color idx) : EncodeMove s (colorWait pixelFill s)

/-- A step in ENCODE is one of the moves. -/
theorem encodeMove_of_encodeStep {s t : State} (hp : s.phase = .encode) (h : encodeStep s = .next t) : EncodeMove s t := by
  have hlive : s.phase ≠ .refused := by simp [hp]
  rcases encodeStep_cases h with ⟨hpos, rfl⟩ | ⟨hpos, rfl⟩ | ⟨hpos, i, hf, -, hx⟩
  · exact .enter hpos
  · exact .abort hpos
  rcases fetchRecord_some hf with ⟨hend, rfl⟩ | ⟨ch, hch, helem, rfl⟩
  · obtain rfl := Outcome.next.inj ((exec_recTerminator hlive).symm.trans hx)
    exact .terminator hpos hend
  obtain rfl := Outcome.next.inj ((exec_recordOf ch hlive).symm.trans hx)
  cases hpix : hasPixels ch with
  | false => exact .bare hpos hch hpix
  | true =>
    simp only [if_true, pixelRecord]
    cases hq : s.pos with
    | notify => exact .notify hq
    | pixel => exact .ask hq
    | color idx => exact .fill hq
    | _ => exact .start hpos (by simp [hq, Position.inRecord]) hch helem hpix

/-! ## What a move keeps -/

/-- t has the parameters, the registry and the driver registers of s. -/
structure KeepsDriver (s t : State) : Prop where
  params : t.params = s.params
  channels : t.channels = s.channels
  configured : t.configured = s.configured
  isOpen : t.isOpen = s.isOpen
  speed : t.speed = s.speed
  minGap : t.minGap = s.minGap
  lastDone : t.lastDone = s.lastDone

theorem pixelAsk_keepsDriver (s : State) : KeepsDriver s (pixelAsk s) := by
  unfold pixelAsk
  split
  · split
    · constructor <;> rfl
    split <;> constructor <;> rfl
  · constructor <;> rfl

/-- No move of ENCODE changes the parameters, the registry or a driver register. -/
theorem EncodeMove.keepsDriver {s t : State} (h : EncodeMove s t) : KeepsDriver s t := by
  have hcmd : ∀ c e, KeepsDriver s (raise (intrusionReason c) (emit [.command c] { s with env := e })) :=
    fun _ _ => by constructor <;> rfl
  have hwait : ∀ e, KeepsDriver s { s with env := e } := fun _ => by constructor <;> rfl
  cases h with
  | enter => unfold encodeEnter; split <;> constructor <;> rfl
  | abort | terminator | bare | start => constructor <;> rfl
  | notify => exact notifyWait_rel hcmd hwait fun _ => by constructor <;> rfl
  | ask => exact pixelAsk_keepsDriver s
  | fill => exact colorWait_rel hcmd hwait fun _ _ => by constructor <;> rfl

/-! ## What a move appends to the trace -/

/-- The trace of t is the trace of s with events after it that all have the property P. -/
def Appends (P : Event → Prop) (s t : State) : Prop := ∃ es, t.trace = s.trace ++ es ∧ ∀ e ∈ es, P e

/-- An event that writes no byte. -/
def WritesNothing (e : Event) : Prop := writtenByte e = none

/-- The events of ENCODE (R179): writes, notifications, colour calls, and the command of another agent. -/
inductive EncodeEvent : Event → Prop
  | write (b : Byte) : EncodeEvent (.write b)
  | switch (id tag : Byte) (desc : List Byte) : EncodeEvent (.switch id tag desc)
  | color (idx : U32) : EncodeEvent (.color idx)
  | command (c : List Byte) : EncodeEvent (.command c)

section Appends

variable {P Q : Event → Prop} {s t u : State}

/-- A state with the same trace has nothing appended. -/
theorem Appends.of_trace_eq (h : t.trace = s.trace) : Appends P s t := ⟨[], by simp [h], by simp⟩

theorem Appends.of_trace_append {es : List Event} (h : t.trace = s.trace ++ es) (hP : ∀ e ∈ es, P e) : Appends P s t :=
  ⟨es, h, hP⟩

theorem Appends.trans (h : Appends P s t) (h' : Appends P t u) : Appends P s u := by
  obtain ⟨es, he, hP⟩ := h
  obtain ⟨es', he', hP'⟩ := h'
  exact ⟨es ++ es', by rw [he', he, List.append_assoc], fun e hm => (List.mem_append.mp hm).elim (hP e) (hP' e)⟩

theorem Appends.mono (h : Appends P s t) (hPQ : ∀ e, P e → Q e) : Appends Q s t :=
  h.imp fun _ ⟨he, hP⟩ => ⟨he, fun e hm => hPQ e (hP e hm)⟩

/-- A reset inside a step keeps the step's first events and no other (R220). -/
theorem Appends.resetDuring (h : Appends P s t) (k : Nat) : Appends P s (resetDuring k s t) := by
  obtain ⟨es, he, hP⟩ := h
  exact ⟨es.take k, by simp [resetDuring_eq_powerOn k he], fun e hm => hP e (List.mem_of_mem_take hm)⟩

/-- A step appends what the sequencer's move appends, or a first part of it. -/
theorem step_appends (h : step s = .next t)
    (hP : ∀ rest u, advance (withResets rest s) = .next u → Appends P (withResets rest s) u) : Appends P s t := by
  rcases step_cases h with ⟨rest, rfl⟩ | ⟨-, k, rest, u, ha, rfl⟩ | ⟨-, rest, ha⟩
  · exact .of_trace_eq rfl
  · exact Appends.resetDuring (s := s) (hP rest u ha) (k + 1)
  · exact hP rest t ha

theorem window_appends {k : State → State} (hc : ∀ c, P (.command c)) (hk : ∀ e, Appends P s (k { s with env := e })) :
    Appends P s (window k s) :=
  window_rel (fun c _ => .of_trace_append (es := [.command c]) rfl (by simp [hc])) fun _ => hk _

theorem flushWait_appends {k : State → State} (hc : ∀ c, P (.command c))
    (hk : ∀ e, Appends P s (k { s with env := e })) : Appends P s (flushWait k s) :=
  flushWait_rel (fun c _ => .of_trace_append (es := [.command c]) rfl (by simp [hc])) (fun _ => .of_trace_eq rfl)
    fun e _ _ => hk e

end Appends

/-- Bytes are written by events of ENCODE. -/
theorem encodeEvent_of_mem_map_write {bs : List Byte} {e : Event} (h : e ∈ bs.map .write) : EncodeEvent e := by
  obtain ⟨b, -, rfl⟩ := List.mem_map.mp h
  exact .write b

theorem openRecord_appends (id tag : Byte) (desc : List Byte) (s : State) :
    Appends EncodeEvent s (openRecord id tag desc s) :=
  .of_trace_append (by rw [openRecord_eq]; rfl) fun _ => encodeEvent_of_mem_map_write

theorem emitChecksum_appends (s : State) : Appends EncodeEvent s (emitChecksum s) :=
  .of_trace_append rfl fun _ => encodeEvent_of_mem_map_write

theorem closeRecord_appends (s : State) : Appends EncodeEvent s (closeRecord s) :=
  (emitChecksum_appends s).trans (.of_trace_eq rfl)

theorem writeBare_appends (id tag : Byte) (desc : List Byte) (s : State) : Appends EncodeEvent s (writeBare id tag desc s) :=
  ((openRecord_appends id tag desc s).trans (u := { openRecord id tag desc s with effPix := 0 }) (.of_trace_eq rfl)).trans
    (closeRecord_appends _)

theorem writeTerminator_appends (s : State) : Appends EncodeEvent s (writeTerminator s) :=
  ((openRecord_appends idTerminator tagTerminator [] s).trans (emitChecksum_appends _)).trans (.of_trace_eq rfl)

theorem startChannel_appends (ch : Channel) (s : State) : Appends EncodeEvent s (startChannel ch s) :=
  (openRecord_appends ch.id ch.typ (descriptorOf ch) s).trans
    (.of_trace_append (es := [.switch ch.id ch.typ (descriptorOf ch)]) rfl (by simp [EncodeEvent.switch]))

theorem pixelAsk_appends (s : State) : Appends EncodeEvent s (pixelAsk s) := by
  unfold pixelAsk
  split
  · split
    · exact .of_trace_eq rfl
    split
    · exact .of_trace_eq rfl
    · exact .of_trace_append (es := [.color _]) rfl (by simp [EncodeEvent.color])
  · exact closeRecord_appends s

theorem pixelFill_appends (a : ColorAnswer) (s : State) : Appends EncodeEvent s (pixelFill a s) :=
  .of_trace_append rfl fun _ => encodeEvent_of_mem_map_write

/-- A move of ENCODE appends events of ENCODE alone (R179). -/
theorem EncodeMove.appends {s t : State} (h : EncodeMove s t) : Appends EncodeEvent s t := by
  have hcmd : ∀ c e, Appends EncodeEvent s (raise (intrusionReason c) (emit [.command c] { s with env := e })) :=
    fun c _ => .of_trace_append (es := [.command c]) rfl (by simp [EncodeEvent.command])
  cases h with
  | enter => unfold encodeEnter; split <;> exact .of_trace_eq rfl
  | abort => exact .of_trace_eq rfl
  | terminator => exact writeTerminator_appends s
  | bare => exact writeBare_appends _ _ _ s
  | start => exact startChannel_appends _ s
  | notify => exact notifyWait_rel hcmd (fun _ => .of_trace_eq rfl) fun _ => .of_trace_eq rfl
  | ask => exact pixelAsk_appends s
  | fill => exact colorWait_rel hcmd (fun _ => .of_trace_eq rfl) fun a e => pixelFill_appends a { s with env := e }

end Sys2Proof.Machine

/-! SUPPORT. The invariant: what the shared updates keep, then the moves phase by phase, then the step. -/

namespace Sys2Proof.Machine

/-! ## States and updates that meet the invariant -/

section Updates

variable {s t : State}

/-- An idle machine meets the invariant when its registry and its widths do. -/
theorem State.Inv.of_idle (hp : t.phase = .idle) (hpos : t.pos.inIdle) (hmark : t.refused = none)
    (hnch : t.nch ≤ t.params.maxCh) (hconf : t.configured = false → t.channels = [])
    (hlast : t.lastDone.toNat < 2 ^ t.params.timeW) (hgap : t.minGap.toNat < 2 ^ t.params.timeW) : t.Inv where
  nchBound := hnch
  unconfigured := hconf
  lastDoneWidth := hlast
  minGapWidth := hgap
  refusedMark := by simp [hp, hmark]
  busyOpen hb := absurd hp (busy_iff.mp hb).1
  position := by simpa [Position.fits, hp] using hpos
  encoding he := by simp [hp] at he
  record he := by simp [hp] at he
  colorCall he := by simp [hp] at he

/-- After a reset the machine meets the invariant, whatever the parameters, the environment and the trace. -/
theorem powerOn_inv (s : State) : (powerOn s).Inv :=
  .of_idle rfl rfl rfl (Nat.zero_le _) (fun _ => rfl) (Nat.two_pow_pos _) (tick_lt s.params s.params.minGapReset)

/-- A state that is not refused has the mark clear. -/
theorem State.Inv.refused_eq_none (h : s.Inv) (hlive : s.phase ≠ .refused) : s.refused = none := by
  simpa using mt h.refusedMark.mpr hlive

/-- What the invariant says of a record depends on the trace through the wire alone. -/
theorem InRecord.of_wire {ch : Channel} (r : InRecord s ch) (es : List Event) (e : Env) (hw : wire es = []) :
    InRecord { s with trace := s.trace ++ es, env := e } ch :=
  { r with checksum := by simpa [hw] using r.checksum }

/-- Events that write nothing, and moves of the environment, keep the invariant. -/
theorem State.Inv.of_wire (h : s.Inv) (es : List Event) (e : Env) (hw : wire es = []) :
    State.Inv { s with trace := s.trace ++ es, env := e } :=
  { h with
    record := fun hp hr => (h.record hp hr).imp fun _ r => r.of_wire es e hw
    colorCall := fun hp idx hc => { h.colorCall hp idx hc with } }

theorem emit_inv (h : s.Inv) {es : List Event} (hw : wire es = []) : (emit es s).Inv := h.of_wire es s.env hw

theorem env_inv (h : s.Inv) (e : Env) : State.Inv { s with env := e } := by simpa using h.of_wire [] e rfl

theorem now_inv (h : s.Inv) : (now s).Inv := h.of_wire [.time (reading s)] _ rfl

theorem raise_inv (h : s.Inv) (r : RefReason) : (raise r s).Inv :=
  { h with
    refusedMark := by simp
    busyOpen := fun hb => absurd rfl (busy_iff.mp hb).2
    position := rfl
    encoding := fun he => by cases he
    record := fun he => by cases he
    colorCall := fun he => by cases he }

/-- Another agent's command, refused, keeps the invariant. -/
theorem intruded_inv (h : s.Inv) (c : List Byte) (e : Env) :
    (raise (intrusionReason c) (emit [.command c] { s with env := e })).Inv :=
  raise_inv (h.of_wire [.command c] e rfl) _

/-- The end of a command or a render keeps the invariant. -/
theorem toIdle_inv (h : s.Inv) (hlive : s.phase ≠ .refused) : (toIdle s).Inv :=
  .of_idle rfl rfl (h.refused_eq_none hlive) h.nchBound h.unconfigured h.lastDoneWidth h.minGapWidth

/-- A render outside every record: a state with the registry and driver registers of one that meets the invariant meets
it too, when its phase, position and CH_IDX do. -/
theorem State.Inv.of_keepsDriver (h : s.Inv) (k : KeepsDriver s t) (hlive : s.phase ≠ .refused)
    (hmark : t.refused = s.refused) (hphase : t.phase ≠ .refused) (hopen : s.isOpen)
    (hfits : Position.fits t.phase t.pos)
    (hout : t.phase = .encode → t.pos = .enter ∨ t.pos = .visit ∧ s.configured ∧ t.chIdx ≤ s.nch) : t.Inv where
  nchBound := by simpa [State.nch, k.channels, k.params] using h.nchBound
  unconfigured := by simpa [k.configured, k.channels] using h.unconfigured
  lastDoneWidth := by simpa [k.lastDone, k.params] using h.lastDoneWidth
  minGapWidth := by simpa [k.minGap, k.params] using h.minGapWidth
  refusedMark := by simp [hphase, hmark, h.refused_eq_none hlive]
  busyOpen _ := k.isOpen.trans hopen
  position := hfits
  encoding hp hpos := by
    obtain hq | ⟨-, hconf, hle⟩ := hout hp
    · exact absurd hq hpos
    · simpa [State.nch, k.configured, k.channels] using ⟨hconf, hle⟩
  record hp hr := by obtain hq | ⟨hq, -⟩ := hout hp <;> simp [hq, Position.inRecord] at hr
  colorCall hp idx hc := by obtain hq | ⟨hq, -⟩ := hout hp <;> simp [hq] at hc

end Updates

/-! ## The moves of IDLE, of the gap wait and of the post-sequence -/

/-- BEGIN in its flush keeps the invariant: it is refused, waits, or opens the transport and reads the time. -/
theorem beginFlushed_inv {s : State} (h : s.Inv) (hlive : s.phase ≠ .refused) (speed : U32) :
    (beginFlushed speed s).Inv :=
  flushWait_rel (intruded_inv h) (env_inv h) fun _ _ _ =>
    .of_idle rfl rfl (h.refused_eq_none hlive) h.nchBound h.unconfigured (reading_lt _) h.minGapWidth

/-- A transaction that an idle machine takes up keeps the invariant. -/
theorem runTransaction_inv {c : List Byte} {s t : State} (h : s.Inv) (hr : s.ready) (ht : runTransaction c s = .next t) :
    t.Inv := by
  obtain ⟨hp, hpos⟩ := ready_iff.mp hr
  have hlive : s.phase ≠ .refused := by simp [hp]
  have hmark := h.refused_eq_none hlive
  have hin : s.pos.inIdle := by simp [hpos, Position.inIdle]
  rcases runTransaction_cases hr ht with ⟨entries, -, hlen, rfl⟩ | ⟨bs, rfl⟩ | ⟨g, rfl⟩ | ⟨speed, -, rfl⟩ | rfl |
    ⟨hopen, rfl⟩ | ⟨v, rfl⟩ | ⟨r, rfl⟩
  · exact .of_idle hp hin hmark hlen (by simp) h.lastDoneWidth h.minGapWidth
  · exact emit_inv h rfl
  · exact .of_idle hp hin hmark h.nchBound h.unconfigured h.lastDoneWidth (tick_lt s.params g)
  · have hflush : State.Inv { emit [.flush] s with pos := .beginFlush speed } :=
      .of_idle hp rfl hmark h.nchBound h.unconfigured h.lastDoneWidth h.minGapWidth
    exact beginFlushed_inv hflush hlive speed
  · exact .of_idle hp hin hmark h.nchBound h.unconfigured h.lastDoneWidth h.minGapWidth
  · exact h.of_keepsDriver (by constructor <;> rfl) hlive rfl (by simp) hopen (by simp [hpos, Position.fits]) (by simp)
  · exact .of_idle hp hin hmark h.nchBound h.unconfigured h.lastDoneWidth h.minGapWidth
  · exact raise_inv h r

theorem idleStep_inv {s t : State} (h : s.Inv) (hp : s.phase = .idle) (ht : idleStep s = .next t) : t.Inv := by
  have hfits : s.pos.inIdle := by simpa [Position.fits, hp] using h.position
  rcases idleStep_cases ht with ⟨speed, -, rfl⟩ | ⟨-, rfl | ⟨c, rest, -, hx⟩⟩
  · exact beginFlushed_inv h (by simp [hp]) speed
  · exact h
  have ha : (accept c rest s).Inv := h.of_wire [.command c] _ rfl
  cases hr : (accept c rest s).ready with
  | true => exact runTransaction_inv ha hr hx
  | false =>
    obtain ⟨r, rfl⟩ := runTransaction_not_ready hr hx
    exact raise_inv ha r

theorem gapPoll_inv {s : State} (h : s.Inv) (hp : s.phase = .gapWait) : (gapPoll s).Inv := by
  have hopen : s.isOpen := h.busyOpen (busy_iff.mpr (by simp [hp]))
  rcases gapPoll_cases s with ⟨-, hg⟩ | ⟨-, hg⟩ <;> rw [hg]
  · exact h.of_keepsDriver (by constructor <;> rfl) (by simp [hp]) rfl (by simp) hopen rfl (by simp)
  · have hy : (emit [.yield] (now s)).Inv := emit_inv (now_inv h) rfl
    exact window_rel (intruded_inv hy) fun _ => env_inv hy _

theorem postStep_inv {s : State} (h : s.Inv) (hp : s.phase = .post) : (postStep s).Inv := by
  have hlive : s.phase ≠ .refused := by simp [hp]
  have hopen : s.isOpen := h.busyOpen (busy_iff.mpr (by simp [hp]))
  unfold postStep
  split
  · exact flushWait_rel (intruded_inv h) (env_inv h) fun _ _ _ =>
      .of_idle rfl rfl (h.refused_eq_none hlive) h.nchBound h.unconfigured (reading_lt _) h.minGapWidth
  · refine window_rel (intruded_inv (emit_inv h rfl)) fun _ => ?_
    exact h.of_keepsDriver (by constructor <;> rfl) hlive rfl (by simp [hp]) hopen (by simp [hp, Position.fits])
      (by simp [hp])

/-! ## The moves of ENCODE -/

/-- The start of a record with pixels: its header and descriptor are on the wire, and ACC is their checksum state. -/
theorem startChannel_inRecord {s : State} {ch : Channel} (hch : s.channels[s.chIdx]? = some ch) (helem : ch.elem ≠ 0)
    (hpix : hasPixels ch) : InRecord (startChannel ch s) ch where
  current := hch
  enabled := helem
  pixels := hpix
  effElem := rfl
  effPix := rfl
  dflt := rfl
  pixI := BitVec.le_def.mpr (Nat.zero_le _)
  checksum := by
    refine ⟨wire s.trace, [], ?_, ?_, ?_⟩
    · simp [startChannel, startPixels, openRecord_eq, wire_singleton_none (e := .switch ..) rfl]
    · simp [startChannel, startPixels]
    · simp [startChannel, startPixels, openRecord_eq]

/-- In the colour source's call the answer writes the pixel's bytes (R81, R143), EFF_ELEM many. -/
theorem pixelFill_eq {s : State} {ch : Channel} {idx : U32} (r : InRecord s ch) (c : InColorCall s idx) (a : ColorAnswer) :
    pixelFill a s = { emitC (pixelBytes ch a) s with
      pbuf := mergePixel s.pbuf a, pixI := s.pixI + 1, pos := .pixel } := by
  simp [pixelFill, pixelBytes, c.buffer, r.dflt, r.effElem]

theorem length_pixelBytes {ch : Channel} (h : (effElemOf ch).toNat ≤ 4) (a : ColorAnswer) :
    (pixelBytes ch a).length = (effElemOf ch).toNat := by
  simp [pixelBytes, h]

/-- A pixel's bytes go to the wire and into ACC, and PIX_I counts the pixel. -/
theorem pixelFill_inRecord {s : State} {ch : Channel} {idx : U32} (r : InRecord s ch) (c : InColorCall s idx)
    (a : ColorAnswer) : InRecord (pixelFill a s) ch := by
  obtain ⟨before, payload, hwire, hlen, hacc⟩ := r.checksum
  have hdue : s.pixI.toNat < s.effPix.toNat := BitVec.lt_def.mp c.due
  have hnext : (s.pixI + 1).toNat = s.pixI.toNat + 1 := by bv_omega
  rw [pixelFill_eq r c a]
  exact { r with
    pixI := BitVec.le_def.mpr (hnext.trans_le hdue)
    checksum := by
      refine ⟨before, payload ++ pixelBytes ch a, ?_, ?_, ?_⟩
      · simp [hwire]
      · show _ = (effElemOf ch).toNat * (s.pixI + 1).toNat
        rw [List.length_append, hlen, length_pixelBytes (r.effElem ▸ c.elemFits), hnext, Nat.mul_succ]
      · simp [hacc, upd_append] }

section Encode

variable {s : State} (h : s.Inv) (hp : s.phase = .encode)
include h hp

theorem isOpen_of_encode : s.isOpen := h.busyOpen (busy_iff.mpr (by simp [hp]))

/-- The end of a channel's pass keeps the invariant: the next CH_IDX is at most NCH. -/
theorem nextVisit_inv {t : State} (k : KeepsDriver s t) (hpos : s.pos ≠ .enter) {ch : Channel}
    (hch : s.channels[s.chIdx]? = some ch) (hmark : t.refused = s.refused) (hphase : t.phase = s.phase)
    (hvisit : t.pos = .visit) (hidx : t.chIdx = s.chIdx + 1) : t.Inv := by
  have hlt : s.chIdx < s.nch := (List.getElem?_eq_some_iff.mp hch).1
  refine h.of_keepsDriver k (by simp [hp]) hmark (by simp [hphase, hp]) (isOpen_of_encode h hp)
    (by simp [hphase, hp, hvisit, Position.fits]) fun _ => .inr ⟨hvisit, (h.encoding hp hpos).1, ?_⟩
  rw [hidx]
  exact hlt

theorem encodeEnter_inv : (encodeEnter s).Inv := by
  unfold encodeEnter
  split
  · next hconf =>
    exact h.of_keepsDriver (by constructor <;> rfl) (by simp [hp]) rfl (by simp [hp]) (isOpen_of_encode h hp)
      (by simp [hp, Position.fits]) fun _ => .inr ⟨rfl, hconf, Nat.zero_le _⟩
  · exact toIdle_inv h (by simp [hp])

theorem writeTerminator_inv : (writeTerminator s).Inv :=
  h.of_keepsDriver (by constructor <;> rfl) (by simp [hp]) rfl (by simp [writeTerminator]) (isOpen_of_encode h hp) rfl
    (by simp [writeTerminator])

theorem startChannel_inv {ch : Channel} (hpos : s.pos ≠ .enter) (hch : s.channels[s.chIdx]? = some ch)
    (helem : ch.elem ≠ 0) (hpix : hasPixels ch) : (startChannel ch s).Inv :=
  { h with
    position := by simp [startChannel, startPixels, openRecord_eq, hp, Position.fits, Position.inRecord]
    encoding := fun _ _ => h.encoding hp hpos
    record := fun _ _ => ⟨ch, startChannel_inRecord hch helem hpix⟩
    colorCall := fun _ _ hc => by cases hc }

/-- The notifier's return keeps the invariant. -/
theorem pixelLoop_inv (hpos : s.pos = .notify) : State.Inv { s with pos := .pixel } :=
  { h with
    position := by simp [hp, Position.fits, Position.inRecord]
    encoding := fun _ _ => h.encoding hp (by simp [hpos])
    record := fun _ _ => (h.record hp (by simp [hpos, Position.inRecord])).imp fun _ r => { r with }
    colorCall := fun _ _ hc => by cases hc }

/-- The call of the colour source keeps the invariant: what the call supposes has just been tested. -/
theorem colorAsked_inv (hpos : s.pos = .pixel) (hdue : s.pixI < s.effPix) (hidx : ¬ 0xFFFFFFFF < pixelIndex s)
    (helem : ¬ 4 < s.effElem.toNat) :
    State.Inv { emit [.color (BitVec.ofNat 32 (pixelIndex s))] s with
      pbuf := s.dflt, pos := .color (BitVec.ofNat 32 (pixelIndex s)) } :=
  { h with
    position := by simp [hp, Position.fits, Position.inRecord]
    encoding := fun _ _ => h.encoding hp (by simp [hpos])
    record := fun _ _ => (h.record hp (by simp [hpos, Position.inRecord])).imp fun _ r =>
      { r.of_wire [.color (BitVec.ofNat 32 (pixelIndex s))] s.env rfl with }
    colorCall := fun _ idx hc => by
      obtain rfl := Position.color.inj hc
      refine ⟨hdue, Nat.not_lt.mp helem, ?_, rfl⟩
      show (BitVec.ofNat 32 (pixelIndex s)).toNat = pixelIndex s
      rw [BitVec.toNat_ofNat]
      exact Nat.mod_eq_of_lt (by omega) }

theorem pixelAsk_inv (hpos : s.pos = .pixel) : (pixelAsk s).Inv := by
  obtain ⟨ch, r⟩ := h.record hp (by simp [hpos, Position.inRecord])
  unfold pixelAsk
  split
  · next hdue =>
    split
    · exact raise_inv h _
    next hidx =>
    split
    · exact raise_inv h _
    · next helem => exact colorAsked_inv h hp hpos hdue hidx helem
  · exact nextVisit_inv h hp (by constructor <;> rfl) (by simp [hpos]) r.current rfl rfl rfl rfl

theorem pixelFill_inv {idx : U32} (hpos : s.pos = .color idx) (a : ColorAnswer) : (pixelFill a s).Inv :=
  { h with
    position := by simp [pixelFill, hp, Position.fits, Position.inRecord]
    encoding := fun _ _ => h.encoding hp (by simp [hpos])
    record := fun _ _ => (h.record hp (by simp [hpos, Position.inRecord])).imp fun _ r =>
      pixelFill_inRecord r (h.colorCall hp idx hpos) a
    colorCall := fun _ _ hc => by cases hc }

end Encode

/-- Outside a record and past its first line, ENCODE is at the start of a pass. -/
theorem pos_eq_visit {s : State} (h : s.Inv) (hp : s.phase = .encode) (hpos : s.pos ≠ .enter)
    (hout : s.pos.inRecord = false) : s.pos = .visit := by
  simpa [Position.fits, hp, hpos, hout] using h.position

theorem EncodeMove.inv {s t : State} (m : EncodeMove s t) (h : s.Inv) (hp : s.phase = .encode) : t.Inv := by
  cases m with
  | enter => exact encodeEnter_inv h hp
  | abort =>
    exact .of_idle rfl rfl (h.refused_eq_none (by simp [hp])) h.nchBound h.unconfigured h.lastDoneWidth h.minGapWidth
  | terminator => exact writeTerminator_inv h hp
  | bare hpos hch => exact nextVisit_inv h hp (by constructor <;> rfl) hpos hch rfl rfl rfl rfl
  | start hpos hout hch helem hpix =>
    exact startChannel_inv h hp hpos hch (helem (pos_eq_visit h hp hpos hout)) hpix
  | notify hpos => exact notifyWait_rel (intruded_inv h) (env_inv h) fun e => pixelLoop_inv (env_inv h e) hp hpos
  | ask hpos => exact pixelAsk_inv h hp hpos
  | fill hpos => exact colorWait_rel (intruded_inv h) (env_inv h) fun a e => pixelFill_inv (env_inv h e) hp hpos a

/-! ## The step -/

theorem advance_inv {s t : State} (h : s.Inv) (ht : advance s = .next t) : t.Inv := by
  unfold advance at ht
  cases hp : s.phase with
  | refused => simp [hp] at ht
  | idle => simp only [hp] at ht; exact idleStep_inv h hp ht
  | gapWait => simp only [hp] at ht; exact Host.Outcome.next.inj ht ▸ gapPoll_inv h hp
  | encode => simp only [hp] at ht; exact (encodeMove_of_encodeStep hp ht).inv h hp
  | post => simp only [hp] at ht; exact Host.Outcome.next.inj ht ▸ postStep_inv h hp

/-- Settles O57: a reset answers a reset state, and every move of the sequencer keeps the invariant, phase by phase. -/
theorem stepKeepsTheInvariant : Obligations.StepKeepsTheInvariant := by
  intro s t h ht
  rcases step_cases ht with ⟨rest, rfl⟩ | ⟨-, k, rest, u, -, rfl⟩ | ⟨-, rest, ha⟩
  · exact powerOn_inv _
  · exact powerOn_inv _
  · exact advance_inv (env_inv h _) ha

end Sys2Proof.Machine

/-! ## Support: commands while BUSY, the wire outside ENCODE, and the writers of LAST_DONE -/

namespace Sys2Proof.Machine

/-! ## Commands while BUSY -/

/-- A command issued while BUSY = 1 is refused with REF_BUSY (R37, R192). -/
theorem exec_command_busy {i : Instr} {s : State} (hi : i.isCommand) (hb : s.busy) :
    exec i s = .next (raise .busy s) := by
  obtain ⟨body, hx⟩ := exec_command hi s
  rw [hx, hostCommand_busy hb]

/-- A transaction issued while BUSY = 1 meets the refusal that its opcode selects (R195). -/
theorem runTransaction_busy (c : List Byte) {s : State} (hb : s.busy) :
    runTransaction c s = .next (raise (intrusionReason c) s) := by
  have hbad : ∀ e, execBadLength e s = .next (raise .busy s) := fun _ => hostCommand_busy hb
  cases c with
  | nil => exact hbad .noOpcode
  | cons op args =>
    rcases decode_cases op args with ⟨ha, ⟨i, hi, hd⟩ | ⟨e, hd⟩⟩ | ⟨ha, hd⟩ <;>
      simp only [runTransaction, hd, intrusionReason, ha]
    · exact exec_command_busy hi hb
    · exact hbad e
    · exact unlessRefused_live (k := fun s => .next (raise .opcode s)) (busy_iff.mp hb).2

/-- Settles O37: a command has the host command's frame, and a transaction that is no command is refused by its opcode. -/
theorem commandWhileBusyIsRefused : Obligations.CommandWhileBusyIsRefused :=
  ⟨fun _ _ hi hb => exec_command_busy hi hb, fun c _ hb => runTransaction_busy c hb⟩

/-! ## The wire outside ENCODE -/

theorem emit_appends (e : Event) (he : writtenByte e = none) (s : State) : Appends WritesNothing s (emit [e] s) :=
  .of_trace_append rfl (by simpa [WritesNothing] using he)

theorem now_appends (s : State) : Appends WritesNothing s (now s) := emit_appends (.time (reading s)) rfl s

theorem beginFlushed_appends (speed : U32) (s : State) : Appends WritesNothing s (beginFlushed speed s) := by
  refine flushWait_appends (fun _ => rfl) fun e => ?_
  refine (Appends.trans ?_ (now_appends _)).trans (.of_trace_eq (toIdle_trace _))
  exact emit_appends (.openPort speed) rfl s

theorem runTransaction_appends {c : List Byte} {s t : State} (hr : s.ready) (h : runTransaction c s = .next t) :
    Appends WritesNothing s t := by
  rcases runTransaction_cases hr h with ⟨entries, -, -, rfl⟩ | ⟨bs, rfl⟩ | ⟨g, rfl⟩ | ⟨speed, -, rfl⟩ | rfl |
    ⟨-, rfl⟩ | ⟨v, rfl⟩ | ⟨r, rfl⟩
  · exact .of_trace_eq rfl
  · exact emit_appends (.response bs) rfl s
  · exact .of_trace_eq rfl
  · exact (emit_appends .flush rfl s).trans (beginFlushed_appends speed _)
  · exact emit_appends .closePort rfl s
  · exact .of_trace_eq rfl
  · exact .of_trace_eq rfl
  · exact .of_trace_eq rfl

theorem idleStep_appends {s t : State} (h : idleStep s = .next t) : Appends WritesNothing s t := by
  rcases idleStep_cases h with ⟨speed, -, rfl⟩ | ⟨-, rfl | ⟨c, rest, -, hx⟩⟩
  · exact beginFlushed_appends speed s
  · exact .of_trace_eq rfl
  have ha : Appends WritesNothing s (accept c rest s) := emit_appends (.command c) rfl s
  cases hr : (accept c rest s).ready with
  | true => exact ha.trans (runTransaction_appends hr hx)
  | false =>
    obtain ⟨r, rfl⟩ := runTransaction_not_ready hr hx
    exact ha.trans (.of_trace_eq rfl)

theorem gapPoll_appends (s : State) : Appends WritesNothing s (gapPoll s) := by
  rcases gapPoll_cases s with ⟨-, hg⟩ | ⟨-, hg⟩ <;> rw [hg]
  · exact now_appends s
  · exact ((now_appends s).trans (emit_appends .yield rfl _)).trans (window_appends (fun _ => rfl) fun _ => .of_trace_eq rfl)

theorem postStep_appends (s : State) : Appends WritesNothing s (postStep s) := by
  unfold postStep
  split
  · exact flushWait_appends (fun _ => rfl) fun e => now_appends { s with env := e }
  · exact (emit_appends .yield rfl s).trans
      (window_appends (fun _ => rfl) fun e => emit_appends .flush rfl { emit [.yield] s with env := e })

/-- Outside ENCODE no move writes a byte (R60). -/
theorem advance_appends {s t : State} (hp : s.phase ≠ .encode) (h : advance s = .next t) : Appends WritesNothing s t := by
  unfold advance at h
  cases hq : s.phase with
  | encode => exact absurd hq hp
  | refused => simp [hq] at h
  | idle => simp only [hq] at h; exact idleStep_appends h
  | gapWait => simp only [hq] at h; exact Host.Outcome.next.inj h ▸ gapPoll_appends s
  | post => simp only [hq] at h; exact Host.Outcome.next.inj h ▸ postStep_appends s

theorem advance_encode {s t : State} (hp : s.phase = .encode) (h : advance s = .next t) : EncodeMove s t := by
  simp only [advance, hp] at h
  exact encodeMove_of_encodeStep hp h

/-- A step in ENCODE appends events of ENCODE alone, a reset inside it too (R179, R220). -/
theorem step_encode_appends {s t : State} (hp : s.phase = .encode) (h : step s = .next t) : Appends EncodeEvent s t :=
  step_appends h fun rest _ ha => (advance_encode (s := withResets rest s) hp ha).appends

/-- A step outside ENCODE writes nothing. -/
theorem step_outside_encode_appends {s t : State} (hp : s.phase ≠ .encode) (h : step s = .next t) :
    Appends WritesNothing s t :=
  step_appends h fun rest _ ha => advance_appends (s := withResets rest s) hp ha

theorem Appends.wire_eq {s t : State} (h : Appends WritesNothing s t) : wire t.trace = wire s.trace := by
  obtain ⟨es, he, hP⟩ := h
  have hes : wire es = [] := List.filterMap_eq_nil_iff.mpr hP
  simp [he, hes]

/-- Settles O49: in ENCODE and out of it a step appends to the trace, and out of it only events that write nothing. -/
theorem onlyEncodeWritesTheWire : Obligations.OnlyEncodeWritesTheWire := by
  intro s t h
  by_cases hp : s.phase = .encode
  · obtain ⟨es, he, -⟩ := step_encode_appends hp h
    exact ⟨⟨es, he⟩, fun hn => absurd hp hn⟩
  · have ha := step_outside_encode_appends hp h
    exact ⟨ha.imp fun _ ⟨he, _⟩ => he, fun _ => ha.wire_eq⟩

/-! ## The writers of LAST_DONE -/

/-- BEGIN in its flush keeps LAST_DONE, or completes: then LAST_DONE is the time read and the transport is open (R170). -/
theorem beginFlushed_lastDone (speed : U32) (s : State) :
    (beginFlushed speed s).lastDone = s.lastDone ∨
    (beginFlushed speed s).lastDone = reading s ∧ (beginFlushed speed s).phase = .idle ∧
      (beginFlushed speed s).isOpen :=
  flushWait_rel (R := fun t => t.lastDone = s.lastDone ∨ t.lastDone = reading s ∧ t.phase = .idle ∧ t.isOpen)
    (fun _ _ => .inl rfl) (fun _ => .inl rfl) fun _ ht hc => .inr ⟨reading_congr rfl ht hc, rfl, rfl⟩

/-- The post-sequence's flush keeps LAST_DONE, or the render completes: then LAST_DONE is the time read (R177). -/
theorem postFlushed_lastDone (s : State) :
    (postFlushed s).lastDone = s.lastDone ∨
    (postFlushed s).lastDone = reading s ∧ (postFlushed s).phase = .idle :=
  flushWait_rel (R := fun t => t.lastDone = s.lastDone ∨ t.lastDone = reading s ∧ t.phase = .idle)
    (fun _ _ => .inl rfl) (fun _ => .inl rfl) fun _ ht hc => .inr ⟨reading_congr rfl ht hc, rfl⟩

theorem gapPoll_lastDone (s : State) : (gapPoll s).lastDone = s.lastDone := by
  rcases gapPoll_cases s with ⟨-, hg⟩ | ⟨-, hg⟩ <;> rw [hg]
  · rfl
  · exact window_rel (R := fun t => t.lastDone = s.lastDone) (fun _ _ => by simp) fun _ => by simp

theorem postYield_lastDone (s : State) : (postYield s).lastDone = s.lastDone :=
  window_rel (R := fun t => t.lastDone = s.lastDone) (fun _ _ => rfl) fun _ => rfl

/-- Of the host's transactions BEGIN alone can write LAST_DONE. -/
theorem runTransaction_lastDone {c : List Byte} {s t : State} (h : runTransaction c s = .next t) :
    t.lastDone = s.lastDone ∨
    (∃ speed, decode c = .ok (.beginTx speed)) ∧ t.lastDone = reading s ∧ t.phase = .idle ∧ t.isOpen := by
  cases hr : s.ready with
  | false =>
    obtain ⟨r, rfl⟩ := runTransaction_not_ready hr h
    exact .inl rfl
  | true =>
    rcases runTransaction_cases hr h with ⟨entries, -, -, rfl⟩ | ⟨bs, rfl⟩ | ⟨g, rfl⟩ | ⟨speed, hd, rfl⟩ | rfl |
      ⟨-, rfl⟩ | ⟨v, rfl⟩ | ⟨r, rfl⟩
    case inr.inr.inr.inl => exact (beginFlushed_lastDone speed _).imp id fun hw => ⟨⟨speed, hd⟩, hw⟩
    all_goals exact .inl rfl

theorem idleStep_lastDone {s t : State} (h : idleStep s = .next t) :
    t.lastDone = s.lastDone ∨
    t.lastDone = reading s ∧ t.phase = .idle ∧ t.isOpen ∧
      ((∃ speed, s.pos = .beginFlush speed) ∨
        ∃ c rest speed, s.env.host = c :: rest ∧ decode c = .ok (.beginTx speed)) := by
  rcases idleStep_cases h with ⟨speed, hpos, rfl⟩ | ⟨-, rfl | ⟨c, rest, hhost, hx⟩⟩
  · exact (beginFlushed_lastDone speed s).imp id fun ⟨hl, hq, ho⟩ => ⟨hl, hq, ho, .inl ⟨speed, hpos⟩⟩
  · exact .inl rfl
  · exact (runTransaction_lastDone hx).imp id fun ⟨⟨speed, hd⟩, hl, hq, ho⟩ =>
      ⟨hl, hq, ho, .inr ⟨c, rest, speed, hhost, hd⟩⟩

/-- Settles O50: phase by phase, LAST_DONE is kept but by a BEGIN that completes and by the end of the post-sequence. -/
theorem lastDoneHasTwoWriters : Obligations.LastDoneHasTwoWriters := by
  intro s t hr h hne
  cases hp : s.phase with
  | refused => simp [step_eq_advance hr, advance, hp] at h
  | idle =>
    rw [step_idle hp hr] at h
    obtain ⟨hl, hq, ho, hw⟩ := (idleStep_lastDone h).resolve_left hne
    exact ⟨hl, hq, .inr ⟨rfl, ho, hw⟩⟩
  | gapWait =>
    rw [step_gapWait hp hr] at h
    obtain rfl := Host.Outcome.next.inj h
    exact absurd (gapPoll_lastDone s) hne
  | encode =>
    rw [step_encode hp hr] at h
    exact absurd (encodeMove_of_encodeStep hp h).keepsDriver.lastDone hne
  | post =>
    rw [step_post hp hr] at h
    obtain rfl := Host.Outcome.next.inj h
    unfold postStep at hne ⊢
    split at hne
    · next hpos =>
      rw [if_pos hpos]
      obtain ⟨hl, hq⟩ := (postFlushed_lastDone s).resolve_left hne
      exact ⟨hl, hq, .inl ⟨rfl, hpos⟩⟩
    · exact absurd (postYield_lastDone s) hne

end Sys2Proof.Machine

/-! ## Support: BEGIN in its flush, and another agent's command at the points of R63 -/

namespace Sys2Proof.Machine

/-! ## BEGIN in its flush -/

/-- An idle machine whose BEGIN is in its flush goes on with that BEGIN (log entry 6). -/
theorem step_beginFlush {s : State} {speed : U32} (hp : s.phase = .idle) (hpos : s.pos = .beginFlush speed)
    (hr : s.env.resetLine = []) : step s = .next (beginFlushed speed s) := by
  simp [step_idle hp hr, idleStep, hpos]

/-- A ready machine takes up BEGIN: it asks for the flush and is in it (R170). -/
theorem exec_beginTx_ready (speed : U32) {s : State} (hs : s.ready) :
    exec (.beginTx speed) s = .next (beginFlushed speed { emit [.flush] s with pos := .beginFlush speed }) := by
  rw [exec, execBegin, hostCommand_ready hs]

/-- Undisturbed, a BEGIN waits in a flush that the transport does not complete (R64, R178). -/
theorem beginFlushed_waits (speed : U32) {s : State} (hi : s.env.intruders = []) (hf : s.env.flushAcks = 0) :
    beginFlushed speed s = s := flushWait_zero hi hf

/-- Settles O15: BEGIN asks for the flush and waits in it, and from there every step keeps the state. -/
theorem beginHangsInItsFlush : Obligations.BeginHangsInItsFlush := by
  intro speed s hs hq hf t
  have hwait : beginFlushed speed t = t := beginFlushed_waits speed hq.noIntruders hf
  have hstep : step t = .next t := by
    rw [step_beginFlush (s := t) (ready_iff.mp hs).1 rfl hq.noReset, hwait]
  exact ⟨(exec_beginTx_ready speed hs).trans (congrArg _ hwait), run_of_step_self hstep⟩

/-! ## Another agent's command -/

/-- The state after another agent has issued c at a point where other tasks can run (R63): the trace shows c, and c is
refused (R68, R192). -/
def intruded (c : List Byte) (rest : List (Option (List Byte))) (s : State) : State :=
  raise (intrusionReason c) (emit [.command c] (popIntruder rest s))

section Intruded

variable {c : List Byte} {rest : List (Option (List Byte))} {s : State} (hi : s.env.intruders = some c :: rest)
include hi

/-- In a blocking flush (R64) another agent's command is refused. -/
theorem flushWait_intruded (k : State → State) : flushWait k s = intruded c rest s := window_intruded hi

/-- At a failed poll (R174) another agent's command is refused at the yield. -/
theorem gapPoll_intruded (hgap : gapPassed s (reading s) = false) :
    gapPoll s = intruded c rest (emit [.yield] (now s)) := by
  rw [gapPoll, if_neg (by simp [hgap])]
  exact window_intruded (s := emit [.yield] (now s)) hi

/-- At the yield of the post-sequence (R177) another agent's command is refused. -/
theorem postStep_yield_intruded (hpos : s.pos = .postYield) : postStep s = intruded c rest (emit [.yield] s) := by
  rw [postStep, if_neg (by simp [hpos])]
  exact window_intruded (s := emit [.yield] s) hi

/-- In the flush of the post-sequence (R177) another agent's command is refused. -/
theorem postStep_flush_intruded (hpos : s.pos = .postFlush) : postStep s = intruded c rest s := by
  rw [postStep, if_pos hpos]
  exact flushWait_intruded hi _

/-- In the flush of a BEGIN (R170) another agent's command is refused. -/
theorem beginFlushed_intruded (speed : U32) : beginFlushed speed s = intruded c rest s := flushWait_intruded hi _

/-- In the notifier's or the colour source's call (R141, R142) another agent's command is refused. -/
theorem pixelRecord_intruded (start : State → State) (hpos : s.pos = .notify ∨ ∃ idx, s.pos = .color idx) :
    pixelRecord start s = intruded c rest s := by
  obtain hn | ⟨idx, hc⟩ := hpos
  · rw [pixelRecord, hn]
    exact window_intruded hi
  · rw [pixelRecord, hc]
    exact window_intruded hi

end Intruded

/-- In the notifier's or the colour source's call ENCODE goes on with the record of the entry CH_IDX is at. -/
theorem encodeStep_inCall {s : State} {ch : Channel} (hp : s.phase = .encode)
    (hpos : s.pos = .notify ∨ ∃ idx, s.pos = .color idx) (hch : s.channels[s.chIdx]? = some ch) (hpix : hasPixels ch) :
    encodeStep s = .next (pixelRecord (startChannel ch) s) := by
  have henter : s.pos ≠ .enter := by intro h; simp [h] at hpos
  have hvisit : s.pos ≠ .visit := by intro h; simp [h] at hpos
  have hfetch : fetchRecord s = some (recordOf ch) := by simp [fetchRecord, hch, hvisit]
  rw [encodeStep_record henter hfetch, exec_recordOf ch (by simp [hp]), if_pos hpix]

/-- Settles O41: at each call and yield the step is the window of that point, and the window refuses the command. -/
theorem commandDuringACommandIsRefused : Obligations.CommandDuringACommandIsRefused := by
  intro op args others s hr hi reason
  refine ⟨?_, ?_, ?_⟩
  · rintro (⟨hp, hpos, ch, hch, hpix⟩ | ⟨hp, hpos⟩ | ⟨hp, speed, hpos⟩)
    · rw [step_encode hp hr, encodeStep_inCall hp hpos hch hpix, pixelRecord_intruded hi _ hpos]
      rfl
    · rw [step_post hp hr, postStep_flush_intruded hi hpos]
      rfl
    · rw [step_beginFlush hp hpos hr, beginFlushed_intruded hi]
      rfl
  · intro hp hgap
    have hfail : gapPassed s (reading s) = false := decide_eq_false (BitVec.not_le.mpr hgap)
    rw [step_gapWait hp hr, gapPoll_intruded hi hfail]
    simp [intruded, raise, emit, now, intrusionReason, reason]
  · intro hp hpos
    rw [step_post hp hr, postStep_yield_intruded hi hpos]
    simp [intruded, raise, emit, intrusionReason, reason]

end Sys2Proof.Machine

/-! ## Support: the words of the host command port and of the wire, and what they decode to -/

namespace Sys2Proof

/-! ## The opcode map (R71) -/

theorem assignedOpcode_iff (op : Byte) : assignedOpcode op ↔
    op = 0x01#8 ∨ op = 0x02#8 ∨ op = 0x03#8 ∨ op = 0x04#8 ∨ op = 0x05#8 ∨ op = 0x06#8 ∨
      op = 0x10#8 ∨ op = 0x11#8 ∨ op = 0x12#8 ∨ op = 0x13#8 ∨ op = 0x14#8 := by
  simp [assignedOpcode]

/-- An opcode outside the map is UNASSIGNED, whatever follows (R87). -/
theorem decode_unassigned {op : Byte} (h : assignedOpcode op = false) (args : List Byte) :
    decode (op :: args) = .ok (.unassigned op args) := by
  rcases decode_cases op args with ⟨ha, -⟩ | ⟨-, hd⟩
  · simp [h] at ha
  · exact hd

/-! ## Operands undo their encoding (R72) -/

theorem decode2_le2 (f : U16 → Instr) (op : Byte) (v : U16) : decode2 f op (le2 v) = .ok (f v) := by
  simp [decode2, le2, asm2_le2]

theorem decode4_le4 (f : U32 → Instr) (op : Byte) (v : U32) : decode4 f op (le4 v) = .ok (f v) := by
  simp [decode4, le4, asm4_le4]

/-- CFG's operands decode to the entries, of which one count byte can number 255 (R120). -/
theorem decodeCfg_encodeEntries (op : Byte) {entries : List Channel} (h : entries.length ≤ 255) :
    decodeCfg op (BitVec.ofNat 8 entries.length :: encodeEntries entries) = .ok (.cfg entries) := by
  have hcount : (BitVec.ofNat 8 entries.length).toNat = entries.length := by
    simpa using Nat.lt_succ_of_le h
  simp [decodeCfg, hcount, length_encodeEntries, decodeEntries_encodeEntries]

/-- Settles O54: an opcode selects its operand form, and the form undoes the operand's encoding. -/
theorem commandRoundTrip : Obligations.CommandRoundTrip := by
  intro m i hwf hrec
  cases i with
  | cfg entries => exact decodeCfg_encodeEntries 0x01#8 (by simpa [Instr.wellFormed] using hwf)
  | setgap g => exact decode4_le4 .setgap 0x03#8 g
  | beginTx speed => exact decode4_le4 .beginTx 0x04#8 speed
  | render pixelCount => exact decode2_le2 .render 0x06#8 pixelCount
  | crcload v => exact decode4_le4 .crcload 0x12#8 v
  | unassigned op rest => exact decode_unassigned (by simpa [Instr.wellFormed] using hwf) rest
  | getcfg | endTx | crcinit | crcupd _ | crcread | crcfinal => rfl
  | recSingleWire _ _ _ _ | recTerminator | recClockedData _ _ _ _ | recClockOnly _ _ | recUnrecognized _ _ => cases hrec

/-! ## When an operand form accepts its bytes (R72) -/

section Accepts

variable (op : Byte) (args : List Byte)

theorem decode0_accepts_iff (i : Instr) : (∃ j, decode0 i op args = .ok j) ↔ (op :: args).length = 1 := by
  unfold decode0
  split
  · simp
  · next h => simpa using h

theorem decode1_accepts_iff (f : Byte → Instr) : (∃ j, decode1 f op args = .ok j) ↔ (op :: args).length = 2 := by
  unfold decode1
  split
  · simp
  · next h => simpa [List.length_eq_one_iff] using h

theorem decode2_accepts_iff (f : U16 → Instr) : (∃ j, decode2 f op args = .ok j) ↔ (op :: args).length = 3 := by
  unfold decode2
  split
  · simp
  · next h => simpa [List.length_eq_two] using h

theorem decode4_accepts_iff (f : U32 → Instr) : (∃ j, decode4 f op args = .ok j) ↔ (op :: args).length = 5 := by
  unfold decode4
  split
  · simp
  · next h =>
    refine iff_of_false (by simp) fun hlen => ?_
    match args, hlen with
    | [b0, b1, b2, b3], _ => exact h b0 b1 b2 b3 rfl

/-- A CFG without a count byte is too short: it needs two bytes and has one. -/
theorem decodeCfg_accepts_iff :
    (∃ j, decodeCfg op args = .ok j) ↔ (op :: args).length = 2 + entryBytes * (byteAt args 0).toNat := by
  cases args with
  | nil => simp [decodeCfg, byteAt]
  | cons n rest =>
    have hcount : byteAt (n :: rest) 0 = n := rfl
    simp only [decodeCfg, hcount, List.length_cons]
    split
    · next h => simp only [Except.ok.injEq, exists_eq', true_iff]; omega
    · next h => simp only [reduceCtorEq, exists_false, false_iff]; omega

end Accepts

/-- Settles O39: an assigned opcode selects an operand form, and the form accepts exactly the bytes it needs. -/
theorem decodeAcceptsExactLength : Obligations.DecodeAcceptsExactLength := by
  intro op args ha
  rcases (assignedOpcode_iff op).mp ha with rfl | rfl | rfl | rfl | rfl | rfl | rfl | rfl | rfl | rfl | rfl
  · exact decodeCfg_accepts_iff _ args
  · exact decode0_accepts_iff _ args .getcfg
  · exact decode4_accepts_iff _ args .setgap
  · exact decode4_accepts_iff _ args .beginTx
  · exact decode0_accepts_iff _ args .endTx
  · exact decode2_accepts_iff _ args .render
  · exact decode0_accepts_iff _ args .crcinit
  · exact decode1_accepts_iff _ args .crcupd
  · exact decode4_accepts_iff _ args .crcload
  · exact decode0_accepts_iff _ args .crcread
  · exact decode0_accepts_iff _ args .crcfinal

/-! ## Registry entries (R73) -/

/-- Settles O12: with the sixteen bytes named, each operand is assembled and written again. -/
theorem entryKeepsAllButReservedBytes : Obligations.EntryKeepsAllButReservedBytes := by
  intro bs hlen
  match bs, hlen with
  | [b0, b1, b2, b3, b4, b5, b6, b7, b8, b9, b10, b11, b12, b13, b14, b15], _ =>
    simp [decodeEntry, encodeEntry, byteAt, le2_asm2, le4_asm4]

/-! ## The colour-order byte (R74) -/

theorem co3Bits_eq_setWidth (c : Byte) : co3Bits c = c.setWidth 6 :=
  (BitVec.setWidth_eq_extractLsb' (by decide)).symm

theorem setWidth_co3Bits (c : Byte) : (co3Bits c).setWidth 8 = co3 c := by
  revert c; decide

theorem co3Bits_setWidth (co : BitVec 6) : co3Bits (co.setWidth 8) = co := by
  rw [co3Bits_eq_setWidth, BitVec.setWidth_setWidth_of_le _ (by decide), BitVec.setWidth_eq]

/-- A colour order of six bits has the bits that co3 clears at 0. -/
theorem co3_setWidth (co : BitVec 6) : co3 (co.setWidth 8) = co.setWidth 8 := by
  rw [← setWidth_co3Bits, co3Bits_setWidth]

theorem coPack_eq_or (r g b w : BitVec 2) : coPack r g b w =
    r.setWidth 8 ||| (g.setWidth 8 <<< 2) ||| (b.setWidth 8 <<< 4) ||| (w.setWidth 8 <<< 6) := by
  revert r g b w; decide

theorem coUnpack_coPack (r g b w : BitVec 2) : coUnpack (coPack r g b w) = (r, g, b, w) := by
  revert r g b w; decide

theorem coPack_coUnpack (c : Byte) :
    coPack (coUnpack c).1 (coUnpack c).2.1 (coUnpack c).2.2.1 (coUnpack c).2.2.2 = c := by
  revert c; decide

/-- Settles O13: packing is the disjunction of the shifted indices, and unpacking is its inverse. -/
theorem colourOrderPacking : Obligations.ColourOrderPacking :=
  ⟨coPack_eq_or, fun _ => rfl, fun c => ⟨rfl, setWidth_co3Bits c⟩, coUnpack_coPack, coPack_coUnpack⟩

/-! ## Record headers and descriptors (R75 to R80) -/

/-- After a header that opens with MAGIC the tag selects the descriptor (R75). -/
theorem decodeRecord_header (m : Quad) (id tag : Byte) (bs : List Byte) :
    decodeRecord m (header m id tag ++ bs) = decodeDescriptor id tag bs := by
  simp [header, decodeRecord, Quad.toList]

theorem decodeDescriptor_descSingleWire (id elem co : Byte) (pix : U16) (rest : List Byte) :
    decodeDescriptor id tagSingleWire (descSingleWire elem co pix ++ rest) =
      .ok (.recSingleWire id elem co pix, rest) := by
  simp [decodeDescriptor, descSingleWire, le2, asm2_le2]

theorem decodeDescriptor_descClockedData (id : Byte) (freq : U32) (co : BitVec 6) (pix : U16) (rest : List Byte) :
    decodeDescriptor id tagClockedData (descClockedData freq co pix ++ rest) =
      .ok (.recClockedData id freq co pix, rest) := by
  simp [decodeDescriptor, descClockedData, le4, le2, asm4_le4, asm2_le2, co3_setWidth, co3Bits_setWidth]

theorem decodeDescriptor_descClockOnly (id : Byte) (freq : U32) (rest : List Byte) :
    decodeDescriptor id tagClockOnly (descClockOnly freq ++ rest) = .ok (.recClockOnly id freq, rest) := by
  simp [decodeDescriptor, descClockOnly, le4, asm4_le4]

/-- A tag that is no recognized type has no descriptor; with id 0xFF, tag 2 is the terminator's (log entry 17). -/
theorem decodeDescriptor_unrecognized (id : Byte) {tag : Byte} (h : recognizedType tag = false) (bs : List Byte) :
    decodeDescriptor id tag bs =
      .ok (if Instr.recUnrecognized id tag = .recUnrecognized 0xFF 0x02 then .recTerminator
        else .recUnrecognized id tag, bs) := by
  obtain ⟨h1, h3, h4⟩ : tag ≠ tagSingleWire ∧ tag ≠ tagClockedData ∧ tag ≠ tagClockOnly := by
    simpa [recognizedType] using h
  unfold decodeDescriptor
  rw [if_neg h1, if_neg h3, if_neg h4]
  by_cases hterm : tag = tagTerminator ∧ id = idTerminator
  · obtain ⟨rfl, rfl⟩ := hterm
    rfl
  · rw [if_neg hterm, if_neg (by simpa [and_comm] using hterm)]

/-- Settles O55: the tag selects the descriptor, and the descriptor's form undoes its encoding. -/
theorem recordRoundTrip : Obligations.RecordRoundTrip := by
  intro m i rest hwf hrec
  cases i with
  | recSingleWire id elem co pix =>
    simpa [encode] using (decodeRecord_header m id _ _).trans (decodeDescriptor_descSingleWire id elem co pix rest)
  | recClockedData id freq co pix =>
    simpa [encode] using (decodeRecord_header m id _ _).trans (decodeDescriptor_descClockedData id freq co pix rest)
  | recClockOnly id freq =>
    simpa [encode] using (decodeRecord_header m id _ _).trans (decodeDescriptor_descClockOnly id freq rest)
  | recTerminator => exact decodeRecord_header m idTerminator tagTerminator rest
  | recUnrecognized id tag =>
    have htag : recognizedType tag = false := by simpa [Instr.wellFormed] using hwf
    exact (decodeRecord_header m id tag rest).trans (decodeDescriptor_unrecognized id htag rest)
  | cfg _ | getcfg | setgap _ | beginTx _ | endTx | render _ | crcinit | crcupd _ | crcload _ | crcread | crcfinal
  | unassigned _ _ => cases hrec

/-- Settles O46: each word is decoded as it stands. -/
theorem writtenOutWordsDecode : Obligations.WrittenOutWordsDecode := by
  unfold Obligations.WrittenOutWordsDecode
  decide

end Sys2Proof

/-! ## Support: the records in closed form, and the steps that run what was decoded -/

namespace Sys2Proof.Machine

/-! ## Records in closed form (R82 to R85) -/

/-- The pixels of a record write their bytes, in order (R81, R142). -/
theorem wire_pixelEvents (ch : Channel) (k : Nat) (answers : List ColorAnswer) :
    wire (pixelEvents ch k answers) = answers.flatMap (pixelBytes ch) := by
  induction answers generalizing k with
  | nil => rfl
  | cons a rest ih =>
    have hcolor : wire [.color (BitVec.ofNat 32 (ch.start.toNat + k))] = [] := rfl
    rw [pixelEvents, ← List.singleton_append, wire_append, wire_append, hcolor, wire_map_write, ih (k + 1)]
    rfl

/-- Settles O53: neither the notification nor a colour call writes, and the other events write the record part by part. -/
theorem recordEventsWriteTheRecord : Obligations.RecordEventsWriteTheRecord := by
  intro m ch answers
  have hswitch : wire (if hasPixels ch then [.switch ch.id ch.typ (descriptorOf ch)] else []) = [] := by
    split <;> rfl
  simp only [recordEvents, wire_append, wire_map_write, hswitch, wire_pixelEvents, recordBytes, recordBody,
    List.append_nil]

@[simp] theorem length_header (m : Quad) (id tag : Byte) : (header m id tag).length = 6 := rfl

/-- The payload has EFF_ELEM bytes for each pixel (R81). -/
theorem length_payload {ch : Channel} {answers : List ColorAnswer} (hlen : answers.length = (effPixOf ch).toNat)
    (helem : effPixOf ch ≠ 0 → (effElemOf ch).toNat ≤ 4) :
    (answers.flatMap (pixelBytes ch)).length = (effElemOf ch).toNat * (effPixOf ch).toNat := by
  by_cases hpix : effPixOf ch = 0
  · obtain rfl : answers = [] := by simpa [hpix] using hlen
    simp [hpix]
  · simp [List.length_flatMap, length_pixelBytes (helem hpix), hlen, Nat.mul_comm]

/-- Header and checksum are ten bytes; the descriptor and the payload make up the rest of a record's length (R84). -/
theorem recordLength_eq (ch : Channel) :
    recordLength ch = 10 + (descriptorOf ch).length + (effElemOf ch).toNat * (effPixOf ch).toNat := by
  by_cases h1 : ch.typ = tagSingleWire
  · simp [recordLength, descriptorOf, descSingleWire, effElemOf, effPixOf, hasPixels, h1]
  by_cases h3 : ch.typ = tagClockedData
  · simp [recordLength, descriptorOf, descClockedData, effElemOf, effPixOf, hasPixels, h3]
  by_cases h4 : ch.typ = tagClockOnly
  · simp [recordLength, descriptorOf, descClockOnly, effPixOf, hasPixels, h4]
  · simp [recordLength, descriptorOf, effPixOf, hasPixels, h1, h3, h4]

/-- Settles O51: a record's parts have the lengths that make up R84's. -/
theorem recordLengths : Obligations.RecordLengths := by
  refine ⟨fun m ch answers hlen helem => ?_, fun _ => rfl⟩
  simp only [recordBytes, recordBody, List.length_append, length_header, length_le4, length_payload hlen helem,
    recordLength_eq]
  omega

/-! ## The steps that run what was decoded -/

/-- Settles O30: the terminator opens with its header alone, and its checksum follows. -/
theorem terminatorIsWritten : Obligations.TerminatorIsWritten := by
  intro s hlive bytes
  rw [exec_recTerminator hlive, writeTerminator, openRecord_eq]
  simp [bytes, header, emitChecksum, emit, dropWorking, final]

/-- The record row of an entry, by the number of its type (R86). -/
theorem recordOf_eq_match (ch : Channel) :
    recordOf ch = match ch.typ.toNat with
      | 1 => .recSingleWire ch.id ch.elem ch.co ch.pix
      | 3 => .recClockedData ch.id ch.freq (ch.co.setWidth 6) ch.pix
      | 4 => .recClockOnly ch.id ch.freq
      | _ => .recUnrecognized ch.id ch.typ := by
  by_cases h1 : ch.typ = tagSingleWire
  · simp [recordOf, h1]
  by_cases h3 : ch.typ = tagClockedData
  · simp [recordOf, h3, co3Bits_eq_setWidth]
  by_cases h4 : ch.typ = tagClockOnly
  · simp [recordOf, h4]
  · simp only [recordOf, h1, h3, h4, if_false]
    split
    · next h => exact absurd (BitVec.eq_of_toNat_eq h) h1
    · next h => exact absurd (BitVec.eq_of_toNat_eq h) h3
    · next h => exact absurd (BitVec.eq_of_toNat_eq h) h4
    · rfl

/-- Settles O36: ENCODE fetches the record of the entry CH_IDX is at, or past the last entry the terminator. -/
theorem encodeRunsTheRecordOfTheType : Obligations.EncodeRunsTheRecordOfTheType := by
  intro s hp hpos hr
  refine ⟨fun ch hch helem => ?_, fun hend => ?_⟩
  · have hfetch : fetchRecord s = some (recordOf ch) := by
      simp only [fetchRecord, hch]
      exact if_neg fun ⟨hv, he⟩ => helem hv he
    rw [step_encode hp hr, encodeStep_record hpos hfetch]
    exact congrArg (exec · s) (recordOf_eq_match ch)
  · have hfetch : fetchRecord s = some .recTerminator := by simp [fetchRecord, hend]
    rw [step_encode hp hr, encodeStep_record hpos hfetch]

/-- Settles O38: the meaning of UNASSIGNED tests for PHASE REFUSED alone. -/
theorem unassignedOpcodeIsRefused : Obligations.UnassignedOpcodeIsRefused :=
  fun _ _ _ hlive => unlessRefused_live (k := fun s => .next (raise .opcode s)) hlive

/-- With nothing at the port a ready machine waits (R221). -/
theorem step_ready_waits {s : State} (hs : s.ready) (hr : s.env.resetLine = []) (hh : s.env.host = []) :
    step s = .next s := by
  obtain ⟨hp, hpos⟩ := ready_iff.mp hs
  simp [step_idle hp hr, idleStep, hpos, hh]

/-- A ready machine takes the host's next transaction from the port and runs it (R70). -/
theorem step_ready_runs {s : State} {c : List Byte} {rest : List (List Byte)} (hs : s.ready)
    (hr : s.env.resetLine = []) (hh : s.env.host = c :: rest) : step s = runTransaction c (accept c rest s) := by
  obtain ⟨hp, hpos⟩ := ready_iff.mp hs
  simp [step_idle hp hr, idleStep, hpos, hh]

/-- A transaction that decodes runs as its instruction. -/
theorem runTransaction_ok {c : List Byte} {i : Instr} (h : decode c = .ok i) (s : State) :
    runTransaction c s = exec i s := by
  rw [runTransaction, h]

/-- Settles O45: with nothing at the port a ready machine waits; otherwise it runs what the transaction decodes to. -/
theorem stepRunsDecodedCommand : Obligations.StepRunsDecodedCommand :=
  ⟨fun _ hs hr hh => step_ready_waits hs hr hh,
    fun _ _ _ _ hs hr hh hd => (step_ready_runs hs hr hh).trans (runTransaction_ok hd _)⟩

end Sys2Proof.Machine

/-! ## Support: the nibble table against the shift register, and the CRC commands of an idle machine -/

namespace Sys2Proof.Machine

/-! ## The reflected shift register (R100) -/

theorem shiftStep_of_clear {c : U32} (h : c.getLsbD 0 = false) : shiftStep c = c >>> 1 := by
  simp only [shiftStep, h, Bool.false_eq_true, if_false]

theorem shiftStep_of_set {c : U32} (h : c.getLsbD 0 = true) : shiftStep c = (c >>> 1) ^^^ poly := by
  simp only [shiftStep, h, if_true]

/-- A shift step is linear over exclusive or: where both words have bit 0 set, the two polynomials cancel. -/
theorem shiftStep_xor (a b : U32) : shiftStep (a ^^^ b) = shiftStep a ^^^ shiftStep b := by
  have hbit : (a ^^^ b).getLsbD 0 = (a.getLsbD 0 ^^ b.getLsbD 0) := BitVec.getLsbD_xor
  cases ha : a.getLsbD 0 <;> cases hb : b.getLsbD 0 <;> rw [ha, hb] at hbit
  case false.false =>
    rw [shiftStep_of_clear hbit, shiftStep_of_clear ha, shiftStep_of_clear hb,
      BitVec.ushiftRight_xor_distrib]
  case false.true =>
    rw [shiftStep_of_set hbit, shiftStep_of_clear ha, shiftStep_of_set hb,
      BitVec.ushiftRight_xor_distrib, BitVec.xor_assoc]
  case true.false =>
    rw [shiftStep_of_set hbit, shiftStep_of_set ha, shiftStep_of_clear hb,
      BitVec.ushiftRight_xor_distrib, BitVec.xor_assoc, BitVec.xor_assoc, BitVec.xor_comm poly]
  case true.true =>
    rw [shiftStep_of_clear hbit, shiftStep_of_set ha, shiftStep_of_set hb,
      BitVec.ushiftRight_xor_distrib, BitVec.xor_comm (b >>> 1), BitVec.xor_assoc, ← BitVec.xor_assoc poly,
      BitVec.xor_self, BitVec.zero_xor]

theorem iterate_shiftStep_xor (n : Nat) (a b : U32) :
    shiftStep^[n] (a ^^^ b) = shiftStep^[n] a ^^^ shiftStep^[n] b := by
  induction n with
  | zero => rfl
  | succ n ih => simp only [Function.iterate_succ_apply', ih, shiftStep_xor]

/-- Bits that are 0 shift out without the polynomial. -/
theorem iterate_shiftStep_of_low_clear {n : Nat} {x : U32} (h : ∀ i < n, x.getLsbD i = false) :
    shiftStep^[n] x = x >>> n := by
  induction n with
  | zero => simp
  | succ n ih =>
    have hbit : (x >>> n).getLsbD 0 = false := by simpa using h n n.lt_succ_self
    rw [Function.iterate_succ_apply', ih fun i hi => h i (hi.trans n.lt_succ_self), shiftStep_of_clear hbit]
    exact (BitVec.shiftRight_add x n 1).symm

theorem iterate_shiftStep_shiftLeft (n : Nat) (x : U32) : shiftStep^[n] (x <<< n) = (x <<< n) >>> n :=
  iterate_shiftStep_of_low_clear fun i hi => by simp [hi]

/-! ## A word and a byte in nibbles (R101, R102) -/

/-- A word is its low nibble and the rest. -/
theorem eq_low_nibble_xor (x : U32) : x = (x.extractLsb' 0 4).setWidth 32 ^^^ ((x >>> 4) <<< 4) := by
  ext i hi
  by_cases h : i < 4
  · simp [h, BitVec.getLsbD_eq_getElem hi]
  · simp [h, Nat.add_sub_cancel' (Nat.le_of_not_lt h), BitVec.getLsbD_eq_getElem hi]

/-- A byte is its low nibble and its high nibble. -/
theorem byte_eq_nibbles_xor (b : Byte) :
    b.setWidth 32 = (b.extractLsb' 0 4).setWidth 32 ^^^ ((b.extractLsb' 4 4).setWidth 32 <<< 4) := by
  revert b; decide

/-- A nibble shifted past four bits comes back under them. -/
theorem setWidth_shiftLeft_ushiftRight (n : BitVec 4) : ((n.setWidth 32 : U32) <<< 4) >>> 4 = n.setWidth 32 := by
  revert n; decide

theorem setWidth_ushiftRight_four (n : BitVec 4) : (n.setWidth 32 : U32) >>> 4 = 0#32 := by
  revert n; decide

/-! ## The table against the register -/

theorem crcTable_eq_iterate (i : BitVec 4) : crcTable i = shiftStep^[4] (i.setWidth 32) := rfl

/-- Four shift steps: the table takes the low nibble, and the rest shifts down. -/
theorem iterate_shiftStep_four (x : U32) : shiftStep^[4] x = crcTable (x.extractLsb' 0 4) ^^^ (x >>> 4) := by
  have hrest : x >>> 4 = ((x >>> 4) <<< 4) >>> 4 := by
    conv_lhs => rw [eq_low_nibble_xor x]
    rw [BitVec.ushiftRight_xor_distrib, setWidth_ushiftRight_four, BitVec.zero_xor]
  conv_lhs => rw [eq_low_nibble_xor x]
  rw [iterate_shiftStep_xor, iterate_shiftStep_shiftLeft, ← hrest, crcTable_eq_iterate]

/-- The nibble step is four shift steps. -/
theorem nib_eq_iterate (st : U32) (n : BitVec 4) : nib st n = shiftStep^[4] (st ^^^ n.setWidth 32) := by
  rw [iterate_shiftStep_four, BitVec.ushiftRight_xor_distrib, setWidth_ushiftRight_four, BitVec.xor_zero, nib]

/-- Settles O8: a nibble step is four shift steps, and by linearity the high nibble can be fed four steps early, four
places up. -/
theorem tableStepIsEightShiftSteps : Obligations.TableStepIsEightShiftSteps := by
  intro st b
  have hhigh : shiftStep^[4] ((b.extractLsb' 4 4).setWidth 32 <<< 4) = (b.extractLsb' 4 4).setWidth 32 := by
    rw [iterate_shiftStep_shiftLeft, setWidth_shiftLeft_ushiftRight]
  calc updByte st b
      = shiftStep^[4] (shiftStep^[4] (st ^^^ (b.extractLsb' 0 4).setWidth 32) ^^^ (b.extractLsb' 4 4).setWidth 32) := by
        rw [updByte, nib_eq_iterate, nib_eq_iterate]
    _ = shiftStep^[4] (shiftStep^[4] ((st ^^^ (b.extractLsb' 0 4).setWidth 32) ^^^
          ((b.extractLsb' 4 4).setWidth 32 <<< 4))) := by
        rw [iterate_shiftStep_xor 4 (st ^^^ _), hhigh]
    _ = shiftStep^[8] (st ^^^ b.setWidth 32) := by
        rw [← Function.iterate_add_apply, BitVec.xor_assoc, ← byte_eq_nibbles_xor]

/-- Settles O6: the shift steps of R100, run on each of the sixteen indices. -/
theorem crcTableEntries : Obligations.CrcTableEntries := by
  unfold Obligations.CrcTableEntries
  decide

/-- Settles O7: the law of R105 read from right to left. -/
theorem checksumStreamsLikeOneBuffer : Obligations.ChecksumStreamsLikeOneBuffer :=
  fun st a b => (upd_append st a b).symm

/-! ## The CRC commands (R107 to R111) -/

/-- Settles O1: an idle machine runs the command's body. -/
theorem crcinitSetsSeed : Obligations.CrcinitSetsSeed := by
  intro _ hready
  rw [exec, execCrcinit, hostCommand_ready hready]
  rfl

/-- Settles O2: an idle machine runs the command's body, the byte step of R102. -/
theorem crcupdFeedsOneByte : Obligations.CrcupdFeedsOneByte := by
  intro _ _ hready
  rw [exec, execCrcupd, hostCommand_ready hready, updByte]

/-- Settles O3: an idle machine runs the command's body. -/
theorem crcloadSetsAccumulator : Obligations.CrcloadSetsAccumulator := by
  intro _ _ hready
  rw [exec, execCrcload, hostCommand_ready hready]

/-- Settles O4: an idle machine runs the command's body, a response. -/
theorem crcreadReturnsRawAccumulator : Obligations.CrcreadReturnsRawAccumulator := by
  intro _ hready
  rw [exec, execCrcread, hostCommand_ready hready, respond, emit]

/-- Settles O5: an idle machine runs the command's body, a response with the finalized value of R104. -/
theorem crcfinalReturnsFinalized : Obligations.CrcfinalReturnsFinalized := by
  intro _ hready
  rw [exec, execCrcfinal, hostCommand_ready hready, respond, emit, final]
  rfl

end Sys2Proof.Machine

/-! SUPPORT. The registry commands (R120, R121). -/

namespace Sys2Proof.Machine

/-- An idle machine answers CFG by the one test of R120: the length of the new list against MAX_CH. -/
theorem exec_cfg_ready (entries : List Channel) {s : State} (hready : s.ready) :
    exec (.cfg entries) s = .next
      (if s.params.maxCh < entries.length then raise .maxCh s
       else { s with channels := entries, configured := true }) := by
  rw [exec, execCfg, hostCommand_ready hready]

/-- An idle machine answers GETCFG with a response and does nothing else. -/
theorem exec_getcfg_ready {s : State} (hready : s.ready) :
    exec .getcfg s = .next (respond (registryBytes s) s) := by
  rw [exec, execGetcfg, hostCommand_ready hready]

/-- Settles O9: the list passes the test of R120, so CFG stores it. -/
theorem cfgReplacesRegistry : Obligations.CfgReplacesRegistry := by
  intro entries s hready hfits
  rw [exec_cfg_ready entries hready, if_neg (Nat.not_lt.mpr hfits)]

/-- Settles O10: the list fails the test of R120, so CFG is refused with REF_MAXCH. -/
theorem cfgAboveMaxChIsRefused : Obligations.CfgAboveMaxChIsRefused := by
  intro entries s hready habove
  rw [exec_cfg_ready entries hready, if_pos habove, raise]

/-- Settles O11: the response is the registry's bytes, each entry in the layout of R73. -/
theorem getcfgReturnsStoredRegistry : Obligations.GetcfgReturnsStoredRegistry := by
  intro s hready
  have hentries : encodeEntries s.channels = s.channels.flatMap fun ch =>
      [ch.id, ch.typ, ch.elem, ch.co] ++ le2 ch.pix ++ [0, 0] ++ le4 ch.start ++ le4 ch.freq := rfl
  rw [exec_getcfg_ready hready, respond, emit, registryBytes, hentries, State.nch]
  rfl

end Sys2Proof.Machine

/-! SUPPORT. The record rows and the steps of one pass of ENCODE (R131 to R144). -/

namespace Sys2Proof.Machine

/-! ## A record with pixels: its start, and its positions -/

/-- Outside a record the row of a record with pixels starts it. -/
theorem pixelRecord_start (start : State → State) {s : State} (hout : s.pos.inRecord = false) :
    pixelRecord start s = start s := by
  unfold pixelRecord
  cases hpos : s.pos with
  | notify | pixel | color _ => simp [hpos, Position.inRecord] at hout
  | rest | beginFlush _ | enter | visit | postYield | postFlush => rfl

/-- A record with pixels starts with its header and descriptor, written and summed, and with the notifier's call
(R137, R138). -/
theorem startPixels_eq (id tag : Byte) (desc : List Byte) (elem : Byte) (pix : U16) (dflt : Quad) (s : State) :
    startPixels id tag desc elem pix dflt s = { s with
      acc := upd seed (header s.params.magic id tag ++ desc)
      effElem := elem, effPix := pix, dflt := dflt, pixI := 0, pos := .notify
      trace := s.trace ++ (header s.params.magic id tag ++ desc).map .write ++ [.switch id tag desc] } := by
  rw [startPixels, openRecord_eq]
  rfl

/-- The row of a record with pixels goes on from the position the state holds (R141, R142). -/
theorem exec_pixelRecord {i : Instr} (hi : i.isPixelRecord) {s : State} (hlive : s.phase ≠ .refused) :
    ∃ start, exec i s = .next (pixelRecord start s) := by
  cases i with
  | recSingleWire id elem co pix => exact ⟨_, sequencerStep_next hlive⟩
  | recClockedData id freq co pix => exact ⟨_, sequencerStep_next hlive⟩
  | _ => cases hi

theorem pixelRecord_notify (start : State → State) {s : State} (hpos : s.pos = .notify) :
    pixelRecord start s = notifyWait (fun u => { u with pos := .pixel }) s := by rw [pixelRecord, hpos]

theorem pixelRecord_pixel (start : State → State) {s : State} (hpos : s.pos = .pixel) :
    pixelRecord start s = pixelAsk s := by rw [pixelRecord, hpos]

theorem pixelRecord_color (start : State → State) {s : State} {idx : U32} (hpos : s.pos = .color idx) :
    pixelRecord start s = colorWait pixelFill s := by rw [pixelRecord, hpos]

/-- Settles O26: outside a record the row starts it, with the single-wire descriptor. -/
theorem singleWireRecordStarts : Obligations.SingleWireRecordStarts := by
  intro id elem co pix s hlive hout desc bytes
  rw [exec, execRecSingleWire, sequencerStep_next hlive, pixelRecord_start _ hout, startPixels_eq]
  rfl

/-- Settles O27: outside a record the row starts it, with the clocked-data descriptor. -/
theorem clockedDataRecordStarts : Obligations.ClockedDataRecordStarts := by
  intro id freq co pix s hlive hout desc bytes
  rw [exec, execRecClockedData, sequencerStep_next hlive, pixelRecord_start _ hout, startPixels_eq]
  rfl

/-! ## The end of a record, and a record without pixels -/

/-- A record ends with its checksum, and the next entry's pass begins (R144). -/
theorem closeRecord_eq (s : State) :
    closeRecord s = { dropPixI s with
      chIdx := s.chIdx + 1, pos := .visit, trace := s.trace ++ (le4 (final s.acc)).map .write } := rfl

/-- A record without pixels is its header, its descriptor and their checksum (R139, R140). -/
theorem writeBare_eq (id tag : Byte) (desc : List Byte) (s : State) :
    writeBare id tag desc s = { dropPixI s with
      acc := upd seed (header s.params.magic id tag ++ desc)
      effPix := 0, chIdx := s.chIdx + 1, pos := .visit
      trace := s.trace ++ (header s.params.magic id tag ++ desc ++
        le4 (crc32 (header s.params.magic id tag ++ desc))).map .write } := by
  rw [writeBare, openRecord_eq, closeRecord_eq]
  simp [dropPixI, emit, crc32]

/-- Settles O28: a record without pixels, with the clock-only descriptor. -/
theorem clockOnlyRecordIsWritten : Obligations.ClockOnlyRecordIsWritten := by
  intro id freq s hlive bytes
  rw [exec, execRecClockOnly, sequencerStep_next hlive, writeBare_eq]
  rfl

/-- Settles O29: a record without pixels, with no descriptor. -/
theorem unrecognizedRecordIsWritten : Obligations.UnrecognizedRecordIsWritten := by
  intro id tag s hlive bytes
  rw [exec, execRecUnrecognized, sequencerStep_next hlive, writeBare_eq, List.append_nil]
  rfl

/-! ## The pixel loop -/

theorem notifyWait_zero {k : State → State} {s : State} (hi : s.env.intruders = []) (h : s.env.notifyAcks = 0) :
    notifyWait k s = s := by simp [notifyWait, window_quiet hi, h]

/-- Settles O31: in the notifier's call the row is that call, which waits or returns. -/
theorem notifierReturnStartsPixels : Obligations.NotifierReturnStartsPixels := by
  intro i s hi hlive hpos hquiet
  obtain ⟨start, hexec⟩ := exec_pixelRecord hi hlive
  rw [hexec, pixelRecord_notify start hpos]
  cases hacks : s.env.notifyAcks with
  | zero => rw [notifyWait_zero hquiet hacks]
  | succ n => rw [notifyWait_succ hquiet hacks]

/-- The index of a pixel is START + PIX_I, exact (R142). -/
theorem pixelIndex_eq {s : State} {ch : Channel} (hch : s.channels[s.chIdx]? = some ch) :
    pixelIndex s = ch.start.toNat + s.pixI.toNat := by simp [pixelIndex, startIndex, hch]

/-- Settles O32: with a pixel due the row is the pair of tests of R142 and the call. -/
theorem pixelTestsThenAsksColour : Obligations.PixelTestsThenAsksColour := by
  intro i ch s hi hlive hpos hch hdue idx
  obtain ⟨start, hexec⟩ := exec_pixelRecord hi hlive
  rw [hexec, pixelRecord_pixel start hpos, pixelAsk, if_pos hdue, pixelIndex_eq hch]
  rfl

/-- Settles O33: in the colour source's call the row is that call, whose return merges the answer and writes it. -/
theorem colourAnswerIsMergedAndWritten : Obligations.ColourAnswerIsMergedAndWritten := by
  intro i idx a rest s hi hlive hpos hquiet hcolors hbuf buf bytes
  obtain ⟨start, hexec⟩ := exec_pixelRecord hi hlive
  have hmerge : mergePixel s.pbuf a = buf := by rw [hbuf]; rfl
  rw [hexec, pixelRecord_color start hpos, colorWait_cons hquiet hcolors, pixelFill]
  simp only [hmerge]
  rfl

/-- With every pixel written the record ends (R144). -/
theorem pixelAsk_done {s : State} (hdone : s.effPix ≤ s.pixI) : pixelAsk s = closeRecord s := by
  rw [pixelAsk, if_neg (BitVec.not_lt.mpr hdone)]

/-- Settles O34: with no pixel due the row ends the record. -/
theorem recordEndsWithChecksum : Obligations.RecordEndsWithChecksum := by
  intro i s hi hlive hpos hdone
  obtain ⟨start, hexec⟩ := exec_pixelRecord hi hlive
  rw [hexec, pixelRecord_pixel start hpos, pixelAsk_done hdone, closeRecord_eq]
  rfl

/-! ## The steps of ENCODE without an environment's call -/

/-- At the first line ENCODE starts the pass of entry 0, or is a no-op (R131). -/
theorem step_enter {s : State} (hp : s.phase = .encode) (hpos : s.pos = .enter) (hr : s.env.resetLine = []) :
    step s = .next (encodeEnter s) := by
  rw [step_encode hp hr, encodeStep, if_pos hpos]

/-- A poll that finds the gap elapsed starts ENCODE (R174). -/
theorem gapPoll_passed {s : State} (hgap : s.minGap ≤ elapsed s.params (reading s) s.lastDone) :
    gapPoll s = { now s with phase := .encode, pos := .enter } := by
  have hpass : gapPassed s (reading s) := decide_eq_true hgap
  rw [gapPoll, if_pos hpass]

/-- Settles O23: the poll starts ENCODE, and ENCODE's first line ends it. -/
theorem unconfiguredRenderIsNoOp : Obligations.UnconfiguredRenderIsNoOp := by
  intro s hp hquiet hconf hgap
  have hpoll : step s = .next { now s with phase := .encode, pos := .enter } :=
    (step_gapWait hp hquiet.noReset).trans (congrArg _ (gapPoll_passed hgap))
  have henter := step_enter (s := { now s with phase := .encode, pos := .enter }) rfl rfl hquiet.noReset
  rw [encodeEnter, if_neg (by simp [hconf])] at henter
  exact (run_succ hpoll).trans (run_succ henter)

/-- A zero ELEM at the start of a channel's pass ends ENCODE (R133). -/
theorem step_abort {s : State} {ch : Channel} (hp : s.phase = .encode) (hpos : s.pos = .visit)
    (hr : s.env.resetLine = []) (hch : s.channels[s.chIdx]? = some ch) (helem : ch.elem = 0) :
    step s = .next (toIdle (dropWorking s)) := by
  simp [step_encode hp hr, encodeStep, fetchRecord, hpos, hch, helem]

/-- Settles O35: ELEM is tested before the type is looked at. -/
theorem zeroElementAbortsSend : Obligations.ZeroElementAbortsSend :=
  fun _ _ hp hpos hr hch helem => step_abort hp hpos hr hch helem

end Sys2Proof.Machine

/-! SUPPORT. Undisturbed runs of ENCODE against the records in closed form (R130 to R147, R85), and what a render keeps
(R153). -/

namespace Sys2Proof.Machine

/-! ## Undisturbed runs inside ENCODE -/

/-- t is reached from s by a run that appends the events es and leaves the colour answers `colors` and the notifier's
returns `acks` to come; nothing else of the environment, of the registry or of the driver changes. -/
structure Reaches (s : State) (es : List Event) (colors : List ColorAnswer) (acks : Nat) (t : State) : Prop where
  reached : ∃ n, run n s = .next t
  keeps : KeepsDriver s t
  refused : t.refused = s.refused
  trace : t.trace = s.trace ++ es
  env : t.env = { s.env with colors := colors, notifyAcks := acks }

section Reaches

variable {s t u : State} {es es' : List Event} {colors colors' : List ColorAnswer} {acks acks' : Nat}

theorem KeepsDriver.trans (h : KeepsDriver s t) (h' : KeepsDriver t u) : KeepsDriver s u where
  params := h'.params.trans h.params
  channels := h'.channels.trans h.channels
  configured := h'.configured.trans h.configured
  isOpen := h'.isOpen.trans h.isOpen
  speed := h'.speed.trans h.speed
  minGap := h'.minGap.trans h.minGap
  lastDone := h'.lastDone.trans h.lastDone

theorem Reaches.trans (h : Reaches s es colors acks t) (h' : Reaches t es' colors' acks' u) :
    Reaches s (es ++ es') colors' acks' u where
  reached := by
    obtain ⟨m, hm⟩ := h.reached
    obtain ⟨n, hn⟩ := h'.reached
    exact ⟨m + n, (run_add n hm).trans hn⟩
  keeps := h.keeps.trans h'.keeps
  refused := h'.refused.trans h.refused
  trace := by rw [h'.trace, h.trace, List.append_assoc]
  env := by rw [h'.env, h.env]

/-- A single step as a run. -/
theorem Reaches.of_step (hstep : step s = .next t) (keeps : KeepsDriver s t) (refused : t.refused = s.refused)
    (trace : t.trace = s.trace ++ es) (env : t.env = { s.env with colors := colors, notifyAcks := acks }) :
    Reaches s es colors acks t :=
  ⟨⟨1, run_succ hstep⟩, keeps, refused, trace, env⟩

theorem Reaches.quiet (h : Reaches s es colors acks t) (hs : s.Quiet) : t.Quiet :=
  ⟨by rw [h.env]; exact hs.noIntruders, by rw [h.env]; exact hs.noReset⟩

end Reaches

/-! ## One step of a pass -/

/-- ENCODE is at the start of a pass, and `entries` are the registry entries from CH_IDX on. -/
structure AtPass (s : State) (entries : List Channel) : Prop where
  phase : s.phase = .encode
  pos : s.pos = .visit
  entries : s.channels.drop s.chIdx = entries

/-- ENCODE is at the pixel loop's test of channel ch, and `entries` are the registry entries after ch. -/
structure InPixelLoop (s : State) (ch : Channel) (entries : List Channel) : Prop where
  phase : s.phase = .encode
  pos : s.pos = .pixel
  entries : s.channels.drop s.chIdx = ch :: entries
  record : InRecord s ch

theorem getElem?_of_drop_eq_cons {α : Type} {l rest : List α} {n : Nat} {x : α} (h : l.drop n = x :: rest) :
    l[n]? = some x := by
  rw [← List.head?_drop, h, List.head?_cons]

section Pass

variable {s : State} {ch : Channel} {entries : List Channel}

/-- Past its first line ENCODE runs the record of the entry CH_IDX is at, unless it aborts there (R132, R133). -/
theorem step_recordOf (hp : s.phase = .encode) (hr : s.env.resetLine = []) (hpos : s.pos ≠ .enter)
    (hch : s.channels[s.chIdx]? = some ch) (helem : ch.elem ≠ 0) :
    step s = .next
      (if hasPixels ch then pixelRecord (startChannel ch) s else writeBare ch.id ch.typ (descriptorOf ch) s) := by
  have hfetch : fetchRecord s = some (recordOf ch) := by
    simp only [fetchRecord, hch]
    exact if_neg fun h => helem h.2
  rw [step_encode hp hr, encodeStep_record hpos hfetch, exec_recordOf ch (by simp [hp])]

/-- After the last entry ENCODE writes the terminator (R146). -/
theorem AtPass.step_terminator (h : AtPass s []) (hr : s.env.resetLine = []) : step s = .next (writeTerminator s) := by
  have hend : s.channels[s.chIdx]? = none := List.getElem?_eq_none (List.drop_eq_nil_iff.mp h.entries)
  have hfetch : fetchRecord s = some .recTerminator := by simp [fetchRecord, hend]
  rw [step_encode h.phase hr, encodeStep_record (by simp [h.pos]) hfetch, exec_recTerminator (by simp [h.phase])]

/-- The end of a record is the start of the next entry's pass. -/
theorem closeRecord_atPass (hp : s.phase = .encode) (hentries : s.channels.drop s.chIdx = ch :: entries) :
    AtPass (closeRecord s) entries where
  phase := hp
  pos := rfl
  entries := by
    show s.channels.drop (s.chIdx + 1) = entries
    rw [← List.drop_drop, hentries, List.drop_one, List.tail_cons]

/-- A record without pixels, in one step (R139, R140). -/
theorem AtPass.reaches_bareRecord (h : AtPass s (ch :: entries)) (hr : s.env.resetLine = []) (helem : ch.elem ≠ 0)
    (hpix : hasPixels ch = false) :
    ∃ t, Reaches s (recordEvents s.params.magic ch []) s.env.colors s.env.notifyAcks t ∧ AtPass t entries ∧
      t.acc = upd seed (recordBody s.params.magic ch []) := by
  have hstep := step_recordOf h.phase hr (by simp [h.pos]) (getElem?_of_drop_eq_cons h.entries) helem
  rw [hpix, if_neg (by simp)] at hstep
  refine ⟨_, .of_step hstep (by constructor <;> rfl) rfl ?_ rfl, closeRecord_atPass h.phase h.entries, ?_⟩
  · simp [writeBare_eq, recordEvents, recordBody, pixelEvents, hpix]
  · simp [writeBare_eq, recordBody]

/-- The notifier's return starts the pixel loop (R141). -/
theorem step_notify (hp : s.phase = .encode) (hpos : s.pos = .notify) (hq : s.Quiet)
    (hch : s.channels[s.chIdx]? = some ch) (helem : ch.elem ≠ 0) (hpix : hasPixels ch) {k : Nat}
    (hk : s.env.notifyAcks = k + 1) :
    step s = .next { s with pos := .pixel, env := { s.env with notifyAcks := k } } := by
  rw [step_recordOf hp hq.noReset (by simp [hpos]) hch helem, if_pos hpix, pixelRecord_notify _ hpos,
    notifyWait_succ hq.noIntruders hk]

/-- A record with pixels begins with its start and the notifier's return, in two steps (R137, R138, R141). -/
theorem AtPass.reaches_pixelLoop (h : AtPass s (ch :: entries)) (hq : s.Quiet) (helem : ch.elem ≠ 0)
    (hpix : hasPixels ch) {k : Nat} (hk : s.env.notifyAcks = k + 1) :
    ∃ t, Reaches s ((header s.params.magic ch.id ch.typ ++ descriptorOf ch).map .write ++
        [.switch ch.id ch.typ (descriptorOf ch)]) s.env.colors k t ∧
      InPixelLoop t ch entries ∧ t.pixI = 0 ∧
      t.acc = upd seed (header s.params.magic ch.id ch.typ ++ descriptorOf ch) := by
  have hch := getElem?_of_drop_eq_cons h.entries
  have hrec := startChannel_inRecord hch helem hpix
  have hstart := step_recordOf h.phase hq.noReset (by simp [h.pos]) hch helem
  rw [if_pos hpix, pixelRecord_start _ (by simp [h.pos, Position.inRecord])] at hstart
  have hnotify := step_notify (s := startChannel ch s) h.phase rfl ⟨hq.noIntruders, hq.noReset⟩ hch helem hpix hk
  have htrace : (startChannel ch s).trace = s.trace ++
      ((header s.params.magic ch.id ch.typ ++ descriptorOf ch).map .write ++
        [.switch ch.id ch.typ (descriptorOf ch)]) := by
    rw [startChannel, startPixels_eq, List.append_assoc]
  refine ⟨_, ⟨⟨2, (run_succ hstart).trans (run_succ hnotify)⟩, by constructor <;> rfl, rfl, htrace, rfl⟩,
    ⟨h.phase, rfl, h.entries, { hrec with }⟩, rfl, ?_⟩
  simp [startChannel, startPixels_eq]

/-! ## The pixel loop -/

/-- The index of a pixel, as the colour source is asked for it (R142). -/
abbrev askedIndex (ch : Channel) (s : State) : U32 := BitVec.ofNat 32 (ch.start.toNat + s.pixI.toNat)

/-- The state in the call of the colour source (R142). -/
def colorAsked (ch : Channel) (s : State) : State :=
  { emit [.color (askedIndex ch s)] s with pbuf := s.dflt, pos := .color (askedIndex ch s) }

/-- A pixel of a sendable channel passes the tests of R142. -/
theorem InRecord.sendable_pixel (r : InRecord s ch) (hsend : Sendable ch) (hdue : s.pixI < s.effPix) :
    ch.start.toNat + s.pixI.toNat < 2 ^ 32 ∧ s.effElem.toNat ≤ 4 := by
  have heff : effPixOf ch = ch.pix := if_pos r.pixels
  have hlt : s.pixI.toNat < (effPixOf ch).toNat := by rw [heff, ← r.effPix]; exact BitVec.lt_def.mp hdue
  have hne : effPixOf ch ≠ 0 := fun h => by simp [h] at hlt
  have hindex := hsend.indexFits hne
  exact ⟨by omega, r.effElem ▸ hsend.elemFits hne⟩

theorem pixelAsk_sendable (r : InRecord s ch) (hsend : Sendable ch) (hdue : s.pixI < s.effPix) :
    pixelAsk s = colorAsked ch s := by
  obtain ⟨hindex, helem⟩ := r.sendable_pixel hsend hdue
  rw [pixelAsk, if_pos hdue, pixelIndex_eq r.current, if_neg (by omega), if_neg (by omega)]
  rfl

/-- In the call of the colour source for a pixel of a sendable channel the machine is as the invariant describes it. -/
theorem InRecord.inColorCall (r : InRecord s ch) (hsend : Sendable ch) (hdue : s.pixI < s.effPix) (e : Env) :
    InRecord { colorAsked ch s with env := e } ch ∧
      InColorCall { colorAsked ch s with env := e } (askedIndex ch s) := by
  obtain ⟨hindex, helem⟩ := r.sendable_pixel hsend hdue
  refine ⟨{ r.of_wire [.color (askedIndex ch s)] e rfl with }, hdue, helem, ?_, rfl⟩
  rw [pixelIndex_eq (s := { colorAsked ch s with env := e }) r.current]
  exact (BitVec.toNat_ofNat ..).trans (Nat.mod_eq_of_lt hindex)

/-- The state after a pixel for which the colour source answered a, with the answers `rest` to come (R142, R143). -/
def pixelDone (ch : Channel) (a : ColorAnswer) (rest : List ColorAnswer) (s : State) : State :=
  pixelFill a { colorAsked ch s with env := { s.env with colors := rest } }

/-- A pixel takes two steps: the call of the colour source, and its return. -/
theorem InPixelLoop.run_pixel (h : InPixelLoop s ch entries) (hq : s.Quiet) (hsend : Sendable ch)
    (hdue : s.pixI < s.effPix) {a : ColorAnswer} {rest : List ColorAnswer} (hc : s.env.colors = a :: rest) :
    run 2 s = .next (pixelDone ch a rest s) := by
  have hask := step_recordOf h.phase hq.noReset (by simp [h.pos]) h.record.current h.record.enabled
  rw [if_pos h.record.pixels, pixelRecord_pixel _ h.pos, pixelAsk_sendable h.record hsend hdue] at hask
  have hfill := step_recordOf (s := colorAsked ch s) h.phase hq.noReset (by simp [colorAsked]) h.record.current
    h.record.enabled
  rw [if_pos h.record.pixels, pixelRecord_color _ rfl, colorWait_cons (s := colorAsked ch s) hq.noIntruders hc] at hfill
  exact (run_succ hask).trans (run_succ hfill)

/-- A pixel appends its events, feeds its bytes to ACC, and the pixel loop goes on with the next one. -/
theorem InPixelLoop.reaches_pixel (h : InPixelLoop s ch entries) (hq : s.Quiet) (hsend : Sendable ch)
    (hdue : s.pixI < s.effPix) {a : ColorAnswer} {rest : List ColorAnswer} (hc : s.env.colors = a :: rest) :
    ∃ t, Reaches s (.color (askedIndex ch s) :: (pixelBytes ch a).map .write) rest s.env.notifyAcks t ∧
      InPixelLoop t ch entries ∧ t.pixI = s.pixI + 1 ∧ t.acc = upd s.acc (pixelBytes ch a) := by
  obtain ⟨r, c⟩ := h.record.inColorCall hsend hdue { s.env with colors := rest }
  have hdone : pixelDone ch a rest s = _ := pixelFill_eq r c a
  refine ⟨pixelDone ch a rest s, ⟨⟨2, h.run_pixel hq hsend hdue hc⟩, by constructor <;> rfl, rfl, ?_, rfl⟩,
    ⟨h.phase, rfl, h.entries, pixelFill_inRecord r c a⟩, rfl, ?_⟩
  · simp [hdone, colorAsked]
  · simp [hdone, colorAsked]

/-- The pixel loop writes the pixels that are left, one colour answer each (R142). -/
theorem InPixelLoop.reaches_pixels {answers rest : List ColorAnswer} (h : InPixelLoop s ch entries) (hq : s.Quiet)
    (hsend : Sendable ch) (hleft : s.pixI.toNat + answers.length = ch.pix.toNat) (hc : s.env.colors = answers ++ rest) :
    ∃ t, Reaches s (pixelEvents ch s.pixI.toNat answers) rest s.env.notifyAcks t ∧
      InPixelLoop t ch entries ∧ t.pixI = ch.pix ∧ t.acc = upd s.acc (answers.flatMap (pixelBytes ch)) := by
  induction answers generalizing s with
  | nil =>
    refine ⟨s, ⟨⟨0, rfl⟩, by constructor <;> rfl, rfl, by simp [pixelEvents], by rw [← List.nil_append rest, ← hc]⟩, h,
      BitVec.eq_of_toNat_eq hleft, rfl⟩
  | cons a answers ih =>
    have hdue : s.pixI < s.effPix := by
      rw [h.record.effPix, BitVec.lt_def, ← hleft, List.length_cons]
      omega
    obtain ⟨u, hu, hloop, hpixI, hacc⟩ := h.reaches_pixel hq hsend hdue hc
    have hnext : u.pixI.toNat = s.pixI.toNat + 1 := by
      rw [hpixI]
      bv_omega
    obtain ⟨t, ht, hloop', hpixI', hacc'⟩ := ih hloop (hu.quiet hq)
      (by rw [hnext, ← hleft, List.length_cons]; omega) (by rw [hu.env]; rfl)
    rw [hnext, hu.env] at ht
    exact ⟨t, hu.trans ht, hloop', hpixI', by rw [hacc', hacc, List.flatMap_cons, upd_append]⟩

/-- After its last pixel a record ends with its checksum (R144). -/
theorem InPixelLoop.reaches_closeRecord (h : InPixelLoop s ch entries) (hr : s.env.resetLine = [])
    (hdone : s.pixI = ch.pix) :
    Reaches s ((le4 (final s.acc)).map .write) s.env.colors s.env.notifyAcks (closeRecord s) ∧
      AtPass (closeRecord s) entries := by
  have hstep := step_recordOf h.phase hr (by simp [h.pos]) h.record.current h.record.enabled
  rw [if_pos h.record.pixels, pixelRecord_pixel _ h.pos,
    pixelAsk_done (by rw [hdone, h.record.effPix]; exact BitVec.le_refl _)] at hstep
  exact ⟨.of_step hstep (by constructor <;> rfl) rfl rfl rfl, closeRecord_atPass h.phase h.entries⟩

/-- A record with pixels, from its start to its checksum. -/
theorem AtPass.reaches_pixelRecord {answers rest : List ColorAnswer} {k : Nat} (h : AtPass s (ch :: entries))
    (hq : s.Quiet) (hsend : Sendable ch) (hpix : hasPixels ch) (hlen : answers.length = ch.pix.toNat)
    (hc : s.env.colors = answers ++ rest) (hk : s.env.notifyAcks = k + 1) :
    ∃ t, Reaches s (recordEvents s.params.magic ch answers) rest k t ∧ AtPass t entries ∧
      t.acc = upd seed (recordBody s.params.magic ch answers) := by
  obtain ⟨u, hu, hloop, hzero, hacc⟩ := h.reaches_pixelLoop hq hsend.enabled hpix hk
  obtain ⟨v, hv, hloop', hlast, hacc'⟩ := hloop.reaches_pixels (answers := answers) (rest := rest) (hu.quiet hq) hsend
    (by simp [hzero, hlen]) (by rw [hu.env]; exact hc)
  obtain ⟨hclose, hpass⟩ := hloop'.reaches_closeRecord (hv.quiet (hu.quiet hq)).noReset hlast
  have hbody : v.acc = upd seed (recordBody s.params.magic ch answers) := by
    rw [hacc', hacc, ← upd_append, recordBody]
  refine ⟨_, ?_, hpass, hbody⟩
  have hall := (hu.trans hv).trans hclose
  simpa [recordEvents, hpix, crc32, hbody, hzero, hv.env, hu.env] using hall

end Pass

/-! ## The records of a list of channels (R85) -/

theorem totalPixels_cons (ch : Channel) (chs : List Channel) :
    totalPixels (ch :: chs) = (effPixOf ch).toNat + totalPixels chs := rfl

theorem totalSwitches_cons (ch : Channel) (chs : List Channel) :
    totalSwitches (ch :: chs) = totalSwitches [ch] + totalSwitches chs := by
  rw [totalSwitches, ← List.singleton_append, List.filter_append, List.length_append]
  rfl

/-- The raw accumulator after the records of a list of channels, from the value it had before them (R147). -/
def accAfter (magic : Quad) (acc : U32) : List Channel → List ColorAnswer → U32
  | [], _ => acc
  | ch :: chs, answers =>
    accAfter magic (upd seed (recordBody magic ch (answers.take (effPixOf ch).toNat))) chs
      (answers.drop (effPixOf ch).toNat)

/-- The raw accumulator is that of the last record. -/
theorem accAfter_concat (magic : Quad) (acc : U32) (init : List Channel) (last : Channel) (answers : List ColorAnswer)
    (hlen : answers.length = totalPixels (init ++ [last])) :
    accAfter magic acc (init ++ [last]) answers =
      upd seed (recordBody magic last (answers.drop (totalPixels init))) := by
  induction init generalizing acc answers with
  | nil =>
    have hall : answers.take (effPixOf last).toNat = answers := List.take_of_length_le hlen.le
    simp [accAfter, totalPixels, hall]
  | cons ch init ih =>
    rw [List.cons_append, totalPixels_cons] at hlen
    rw [List.cons_append, accAfter, ih _ _ (by rw [List.length_drop]; omega), List.drop_drop, totalPixels_cons]

section Frame

variable {s : State} {ch : Channel} {entries chs : List Channel} {answers rest : List ColorAnswer} {k : Nat}

/-- The pass of a sendable channel writes its record (R132 to R144). -/
theorem AtPass.reaches_record (h : AtPass s (ch :: entries)) (hq : s.Quiet) (hsend : Sendable ch)
    (hlen : answers.length = (effPixOf ch).toNat) (hc : s.env.colors = answers ++ rest)
    (hk : s.env.notifyAcks = totalSwitches [ch] + k) :
    ∃ t, Reaches s (recordEvents s.params.magic ch answers) rest k t ∧ AtPass t entries ∧
      t.acc = upd seed (recordBody s.params.magic ch answers) := by
  cases hpix : hasPixels ch with
  | true =>
    have heff : effPixOf ch = ch.pix := if_pos hpix
    exact h.reaches_pixelRecord hq hsend hpix (heff ▸ hlen) hc (by simpa [totalSwitches, hpix, Nat.add_comm] using hk)
  | false =>
    obtain rfl : answers = [] := by simpa [effPixOf, hpix] using hlen
    obtain rfl : s.env.colors = rest := hc
    obtain rfl : s.env.notifyAcks = k := by simpa [totalSwitches, hpix] using hk
    exact h.reaches_bareRecord hq.noReset hsend.enabled hpix

/-- Passes of sendable channels write their records in registry order. -/
theorem AtPass.reaches_records (h : AtPass s (chs ++ entries)) (hq : s.Quiet) (hsend : ∀ ch ∈ chs, Sendable ch)
    (hlen : answers.length = totalPixels chs) (hc : s.env.colors = answers ++ rest)
    (hk : s.env.notifyAcks = totalSwitches chs + k) :
    ∃ t, Reaches s (recordsEvents s.params.magic chs answers) rest k t ∧ AtPass t entries ∧
      t.acc = accAfter s.params.magic s.acc chs answers := by
  induction chs generalizing s answers with
  | nil =>
    obtain rfl : answers = [] := List.length_eq_zero_iff.mp hlen
    obtain rfl : s.env.colors = rest := hc
    obtain rfl : s.env.notifyAcks = k := hk.trans (Nat.zero_add k)
    exact ⟨s, ⟨⟨0, rfl⟩, by constructor <;> rfl, rfl, (List.append_nil _).symm, rfl⟩, h, rfl⟩
  | cons ch chs ih =>
    rw [totalPixels_cons] at hlen
    rw [totalSwitches_cons, Nat.add_assoc] at hk
    have hsplit := List.take_append_drop (effPixOf ch).toNat answers
    have htake : (answers.take (effPixOf ch).toNat).length = (effPixOf ch).toNat := by rw [List.length_take]; omega
    obtain ⟨u, hu, hpass, hacc⟩ := AtPass.reaches_record h hq (hsend ch (by simp)) htake
      (by rw [hc, ← List.append_assoc, hsplit]) hk
    obtain ⟨t, ht, hpass', hacc'⟩ := ih hpass (hu.quiet hq) (fun c hm => hsend c (by simp [hm]))
      (answers := answers.drop (effPixOf ch).toNat) (by rw [List.length_drop]; omega) (by rw [hu.env]) (by rw [hu.env])
    rw [hu.keeps.params] at ht hacc'
    exact ⟨t, hu.trans ht, hpass', by rw [hacc', hacc, accAfter]⟩

/-- A configured ENCODE starts the pass of entry 0, and the channels chs before `entries` get through. -/
theorem reaches_records_of_enter (hp : s.phase = .encode) (hpos : s.pos = .enter) (hconf : s.configured) (hq : s.Quiet)
    (hchs : s.channels = chs ++ entries) (hsend : ∀ ch ∈ chs, Sendable ch) (hlen : answers.length = totalPixels chs)
    (hc : s.env.colors = answers ++ rest) (hk : s.env.notifyAcks = totalSwitches chs + k) :
    ∃ t, Reaches s (recordsEvents s.params.magic chs answers) rest k t ∧ AtPass t entries ∧
      t.acc = accAfter s.params.magic s.acc chs answers := by
  have hstep := step_enter hp hpos hq.noReset
  rw [encodeEnter, if_pos hconf] at hstep
  have henter : Reaches s [] s.env.colors s.env.notifyAcks { s with chIdx := 0, pos := .visit } :=
    .of_step hstep (by constructor <;> rfl) rfl (List.append_nil _).symm rfl
  obtain ⟨t, ht, hpass, hacc⟩ := AtPass.reaches_records (s := { s with chIdx := 0, pos := .visit }) ⟨hp, rfl, hchs⟩
    (henter.quiet hq) hsend hlen hc hk
  exact ⟨t, henter.trans ht, hpass, hacc⟩

end Frame

theorem writeTerminator_trace (s : State) :
    (writeTerminator s).trace = s.trace ++ (terminatorBytes s.params.magic).map .write := by
  simp [writeTerminator, openRecord_eq, terminatorBytes, crc32]

theorem writeTerminator_acc (s : State) :
    (writeTerminator s).acc = upd seed (header s.params.magic idTerminator tagTerminator) := by
  simp [writeTerminator, openRecord_eq]

/-- Settles O59: the channels' records, one pass after the other, and then the terminator. -/
theorem encodeWritesTheFrame : Obligations.EncodeWritesTheFrame := by
  intro s answers rest k hp hpos hconf hq hsend hlen hc hk
  obtain ⟨u, hu, hpass, -⟩ := reaches_records_of_enter hp hpos hconf hq (List.append_nil _).symm hsend hlen hc hk
  have hterm : Reaches u ((terminatorBytes u.params.magic).map .write) u.env.colors u.env.notifyAcks
      (writeTerminator u) :=
    .of_step (hpass.step_terminator (hu.quiet hq).noReset) (by constructor <;> rfl) rfl
      (writeTerminator_trace u) rfl
  obtain ⟨⟨n, hrun⟩, keeps, hrefused, htrace, henv⟩ := hu.trans hterm
  refine ⟨n, writeTerminator u, hrun, rfl, rfl, ?_, ?_, ?_, keeps.channels, keeps.configured, keeps.isOpen, keeps.speed,
    keeps.lastDone, keeps.minGap, hrefused, keeps.params⟩
  · rw [htrace, hu.keeps.params, frameEvents]
  · rw [writeTerminator_acc, hu.keeps.params]
    rfl
  · rw [henv, hu.env]

/-- Settles O60: the records up to the disabled channel, one pass after the other, and then the abort. -/
theorem encodeTruncatesAtDisabledChannel : Obligations.EncodeTruncatesAtDisabledChannel := by
  intro s good later bad answers rest k hp hpos hconf hq hchs hbad hsend hlen hc hk
  obtain ⟨u, hu, hpass, hacc⟩ := reaches_records_of_enter hp hpos hconf hq hchs hsend hlen hc hk
  have habort : Reaches u [] u.env.colors u.env.notifyAcks (toIdle (dropWorking u)) :=
    .of_step (step_abort hpass.phase hpass.pos (hu.quiet hq).noReset (getElem?_of_drop_eq_cons hpass.entries) hbad)
      (by constructor <;> rfl) rfl (List.append_nil _).symm rfl
  obtain ⟨⟨n, hrun⟩, keeps, hrefused, htrace, henv⟩ := hu.trans habort
  refine ⟨n, toIdle (dropWorking u), hrun, rfl, rfl, ?_, ?_, ?_, ?_, keeps.channels, keeps.configured, keeps.isOpen,
    keeps.speed, keeps.lastDone, keeps.minGap, hrefused, keeps.params⟩
  · rw [htrace, List.append_nil]
  · rintro rfl
    exact hacc
  · rintro init last rfl
    exact hacc.trans (accAfter_concat _ _ init last answers hlen)
  · rw [henv, hu.env]

/-! ## The byte count of a frame (R149) -/

theorem length_wire_recordEvents (m : Quad) {ch : Channel} {answers : List ColorAnswer}
    (hlen : answers.length = (effPixOf ch).toNat) (helem : effPixOf ch ≠ 0 → (effElemOf ch).toNat ≤ 4) :
    (wire (recordEvents m ch answers)).length = recordLength ch := by
  rw [recordEventsWriteTheRecord, recordLengths.1 m ch answers hlen helem]

/-- The records of a list of channels have the sum of their lengths. -/
theorem length_wire_recordsEvents (m : Quad) {chs : List Channel} {answers : List ColorAnswer}
    (helem : ∀ ch ∈ chs, effPixOf ch ≠ 0 → (effElemOf ch).toNat ≤ 4) (hlen : answers.length = totalPixels chs) :
    (wire (recordsEvents m chs answers)).length = (chs.map recordLength).sum := by
  induction chs generalizing answers with
  | nil => rfl
  | cons ch chs ih =>
    rw [totalPixels_cons] at hlen
    rw [recordsEvents, wire_append, List.length_append, List.map_cons, List.sum_cons,
      length_wire_recordEvents m (by rw [List.length_take]; omega) (helem ch (by simp)),
      ih (fun c hm => helem c (by simp [hm])) (by rw [List.length_drop]; omega)]

/-- A frame has the bytes of its records, and the terminator's ten. -/
theorem length_wire_frameEvents (m : Quad) {chs : List Channel} {answers : List ColorAnswer}
    (helem : ∀ ch ∈ chs, effPixOf ch ≠ 0 → (effElemOf ch).toNat ≤ 4) (hlen : answers.length = totalPixels chs) :
    (wire (frameEvents m chs answers)).length = (chs.map recordLength).sum + 10 := by
  rw [frameEvents, wire_append, wire_map_write, List.length_append, length_wire_recordsEvents m helem hlen,
    recordLengths.2]

/-- Settles O52: the sum of R149; a single-wire channel with ELEM 3 needs no bound on its indices for it. -/
theorem frameByteCount : Obligations.FrameByteCount := by
  refine ⟨fun m chs answers hsend hlen => length_wire_frameEvents m (fun ch hm => (hsend ch hm).elemFits) hlen,
    fun m ch answers htyp helem hlen => ?_⟩
  have hlength : recordLength ch = 14 + 3 * ch.pix.toNat := by simp [recordLength, htyp, helem]
  rw [length_wire_frameEvents m (by simp [effElemOf, htyp, helem]) (by simpa [totalPixels, effPixOf, hasPixels, htyp]),
    List.map_singleton, List.sum_singleton, hlength]
  omega

/-! ## What a render keeps (R153) -/

/-- t has the parameters, the registry and the driver registers of s, LAST_DONE apart. -/
abbrev KeepsConfiguration (s t : State) : Prop := KeepsDriver { s with lastDone := t.lastDone } t

theorem KeepsDriver.configuration {s t : State} (h : KeepsDriver s t) : KeepsConfiguration s t :=
  { h with lastDone := rfl }

theorem gapPoll_keepsDriver (s : State) : KeepsDriver s (gapPoll s) := by
  rcases gapPoll_cases s with ⟨-, hg⟩ | ⟨-, hg⟩ <;> rw [hg]
  · constructor <;> rfl
  · have hyield : KeepsDriver s (emit [.yield] (now s)) := by constructor <;> rfl
    exact window_rel (R := KeepsDriver s) (fun _ _ => { hyield with }) fun _ => { hyield with }

theorem postYield_keepsDriver (s : State) : KeepsDriver s (postYield s) := by
  rw [postYield]
  exact window_rel (R := KeepsDriver s) (fun _ _ => by constructor <;> rfl) fun _ => by constructor <;> rfl

theorem postStep_keepsConfiguration (s : State) : KeepsConfiguration s (postStep s) := by
  unfold postStep
  split
  · rw [postFlushed]
    exact flushWait_rel (R := KeepsConfiguration s) (fun _ _ => by constructor <;> rfl)
      (fun _ => by constructor <;> rfl) fun _ _ _ => by constructor <;> rfl
  · exact (postYield_keepsDriver s).configuration

/-- No move of a render changes the parameters, the registry, CONFIGURED, OPEN, SPEED or MIN_GAP. -/
theorem advance_busy_keepsConfiguration {s t : State} (hb : s.busy) (h : advance s = .next t) :
    KeepsConfiguration s t := by
  obtain ⟨hidle, hlive⟩ := busy_iff.mp hb
  cases hp : s.phase with
  | idle => exact absurd hp hidle
  | refused => exact absurd hp hlive
  | encode => exact (advance_encode hp h).keepsDriver.configuration
  | gapWait =>
    obtain rfl : gapPoll s = t := by simpa [advance, hp] using h
    exact (gapPoll_keepsDriver s).configuration
  | post =>
    obtain rfl : postStep s = t := by simpa [advance, hp] using h
    exact postStep_keepsConfiguration s

/-- Settles O47: without a reset the step is the sequencer's move, and no move of a render changes these registers. -/
theorem renderKeepsConfiguration : Obligations.RenderKeepsConfiguration := by
  intro s t hb hr hstep
  rw [step_eq_advance hr] at hstep
  have k := advance_busy_keepsConfiguration hb hstep
  exact ⟨k.channels, k.configured, k.isOpen, k.speed, k.minGap, k.params⟩

end Sys2Proof.Machine

/-! SUPPORT. The driver: its commands, the gap wait, the post-sequence, and the gap guarantee of a render (R170 to R179). -/

namespace Sys2Proof.Machine

/-! ## The gap guarantee (R176) -/

/-- No reading since s has passed the gap test: nothing has been written, and while the render goes on it is in the gap
wait, with the MIN_GAP and the LAST_DONE of s. -/
structure BeforeGap (s u : State) : Prop where
  silent : Appends WritesNothing s u
  waiting : u.busy → u.phase = .gapWait ∧ KeepsDriver s u

/-- A reading since s has passed the gap test of s, and nothing has been written before it. -/
def GapRead (s u : State) : Prop :=
  ∃ pre τ post, u.trace = s.trace ++ (pre ++ .time τ :: post) ∧ (∀ e ∈ pre, WritesNothing e) ∧
    s.minGap ≤ elapsed s.params τ s.lastDone

theorem BeforeGap.start {s : State} (hp : s.phase = .gapWait) : BeforeGap s s :=
  ⟨.of_trace_eq rfl, fun _ => ⟨hp, by constructor <;> rfl⟩⟩

/-- The trace only grows, so a reading stays in it. -/
theorem GapRead.after_step {s u v : State} (h : GapRead s u) (hstep : step u = .next v) : GapRead s v := by
  obtain ⟨pre, τ, post, htrace, hpre, hgap⟩ := h
  obtain ⟨⟨es, hes⟩, -⟩ := onlyEncodeWritesTheWire u v hstep
  exact ⟨pre, τ, post ++ es, by simp [hes, htrace], hpre, hgap⟩

/-- A failed poll stays in the gap wait, or another agent's command ends the render. -/
theorem gapPoll_failed_phase {s : State} (hp : s.phase = .gapWait) (hgap : gapPassed s (reading s) = false) :
    (gapPoll s).phase = .gapWait ∨ (gapPoll s).phase = .refused := by
  rw [gapPoll, if_neg (by simp [hgap])]
  exact window_rel (R := fun t => t.phase = .gapWait ∨ t.phase = .refused) (fun _ _ => .inr rfl) fun _ => .inl hp

/-- A poll either reads a time that passes the gap test, or leaves the render before its gap. -/
theorem BeforeGap.poll {s u : State} (h : BeforeGap s u) (hp : u.phase = .gapWait) (k : KeepsDriver s u) :
    BeforeGap s (gapPoll u) ∨ GapRead s (gapPoll u) := by
  cases hgap : gapPassed u (reading u) with
  | true =>
    obtain ⟨es, htrace, hes⟩ := h.silent
    have hpass : u.minGap ≤ elapsed u.params (reading u) u.lastDone := of_decide_eq_true hgap
    rw [gapPoll_passed hpass]
    exact .inr ⟨es, reading u, [], by simp [htrace], hes, by rwa [← k.minGap, ← k.params, ← k.lastDone]⟩
  | false =>
    refine .inl ⟨h.silent.trans (gapPoll_appends u), fun hb => ⟨?_, k.trans (gapPoll_keepsDriver u)⟩⟩
    exact (gapPoll_failed_phase hp hgap).resolve_right (busy_iff.mp hb).2

/-- A step of the gap wait is a poll, unless a reset ends the render. -/
theorem BeforeGap.after_step {s u v : State} (h : BeforeGap s u) (hb : u.busy) (hstep : step u = .next v) :
    BeforeGap s v ∨ GapRead s v := by
  obtain ⟨hp, k⟩ := h.waiting hb
  have hsilent : Appends WritesNothing s v := h.silent.trans (step_outside_encode_appends (by simp [hp]) hstep)
  have hreset (hidle : v.phase = .idle) : BeforeGap s v := ⟨hsilent, fun hbusy => absurd hidle (busy_iff.mp hbusy).1⟩
  rcases step_cases hstep with ⟨rest, rfl⟩ | ⟨-, j, rest, w, -, rfl⟩ | ⟨-, rest, hadv⟩
  · exact .inl (hreset rfl)
  · exact .inl (hreset rfl)
  · have hmove : advance (withResets rest u) = .next (gapPoll (withResets rest u)) := by
      simp [advance, hp]
    obtain rfl := Host.Outcome.next.inj (hmove.symm.trans hadv)
    have hwait : BeforeGap s (withResets rest u) := ⟨h.silent, fun _ => ⟨hp, { k with }⟩⟩
    exact hwait.poll hp { k with }

/-- A property that every step from a busy state keeps holds at the end of a render. -/
theorem run_busy_induction {R : State → Prop} {s t : State} {n : Nat} (hs : R s)
    (hstep : ∀ u v, R u → u.busy → step u = .next v → R v) (hrun : run n s = .next t)
    (hbusy : ∀ m u, m < n → run m s = .next u → u.busy) : R t := by
  induction n generalizing t with
  | zero =>
    obtain rfl := Host.Outcome.next.inj hrun
    exact hs
  | succ n ih =>
    obtain ⟨u, hu, hlast⟩ := run_succ_last hrun
    exact hstep u t (ih hu fun m w hm => hbusy m w (by omega)) (hbusy n u n.lt_succ_self hu) hlast

/-- A run of a render from its gap wait is before its gap, or has read a time that passes the gap test. -/
theorem run_beforeGap_or_gapRead {s t : State} {n : Nat} (hp : s.phase = .gapWait) (hrun : run n s = .next t)
    (hbusy : ∀ m u, m < n → run m s = .next u → u.busy) : BeforeGap s t ∨ GapRead s t :=
  run_busy_induction (R := fun u => BeforeGap s u ∨ GapRead s u) (.inl (.start hp))
    (fun _ _ h hb hstep => h.elim (fun h => h.after_step hb hstep) fun h => .inr (h.after_step hstep)) hrun hbusy

theorem not_writesNothing_write (b : Byte) : ¬ WritesNothing (.write b) := by simp [WritesNothing, writtenByte]

/-- Events without a write that are followed by a time reading: a write in the whole list comes after that reading. -/
theorem exists_time_before_write {pre post before after : List Event} {τ : U32} {b : Byte}
    (hpre : ∀ e ∈ pre, WritesNothing e) (h : pre ++ .time τ :: post = before ++ .write b :: after) :
    ∃ post', before = pre ++ .time τ :: post' := by
  rcases List.append_eq_append_iff.mp h with ⟨mid, hbefore, hrest⟩ | ⟨mid, hpre', hrest⟩
  · cases mid with
    | nil => simp at hrest
    | cons e mid =>
      obtain ⟨rfl, -⟩ := List.cons.inj hrest
      exact ⟨mid, hbefore⟩
  · cases mid with
    | nil => simp at hrest
    | cons e mid =>
      obtain ⟨rfl, -⟩ := List.cons.inj hrest
      exact absurd (hpre _ (by simp [hpre'])) (not_writesNothing_write b)

/-- Settles O58: a render before its gap has written nothing, and afterwards the reading that passed the gap test stands
before every write. -/
theorem noWriteBeforeTheGapHasPassed : Obligations.NoWriteBeforeTheGapHasPassed := by
  intro s t n hp hrun hbusy before b after htrace
  rw [List.append_assoc] at htrace
  rcases run_beforeGap_or_gapRead hp hrun hbusy with ⟨⟨es, hes, hsilent⟩, -⟩ | ⟨pre, τ, post, hread, hpre, hgap⟩
  · have hmem : .write b ∈ es := by simp [List.append_cancel_left (hes.symm.trans htrace)]
    exact absurd (hsilent _ hmem) (not_writesNothing_write b)
  · obtain ⟨post', hbefore⟩ := exists_time_before_write hpre (List.append_cancel_left (hread.symm.trans htrace))
    exact ⟨pre, τ, post', hbefore, hgap⟩

/-! ## Elapsed time (R175) -/

theorem timeW_le (p : Params) : p.timeW ≤ 32 := by
  have := p.timeWOver16.isLt
  simp only [Params.timeW]
  omega

/-- A tick is the value modulo 2^TIME_W: TIME_W is at most 32, so the 32-bit word holds it. -/
theorem toNat_tick (p : Params) (v : U32) : (tick p v).toNat = v.toNat % 2 ^ p.timeW := by
  rw [tick, BitVec.toNat_ofNat]
  exact Nat.mod_eq_of_lt ((Nat.mod_le _ _).trans_lt v.isLt)

/-- Settles O21: 2^TIME_W divides 2^32, so the 32-bit difference modulo 2^TIME_W is the difference of the readings, with
one turn of the counter added after a wrap. -/
theorem elapsedIsModularDifference : Obligations.ElapsedIsModularDifference := by
  intro p t l ht hl
  rw [elapsed, toNat_tick]
  split
  · next hle =>
    rw [BitVec.toNat_sub_of_le (BitVec.le_def.mpr hle)]
    exact Nat.mod_eq_of_lt (by omega)
  · next hwrap =>
    obtain ⟨turns, hturns⟩ := Nat.pow_dvd_pow 2 (timeW_le p)
    have hdiff : 2 ^ 32 - l.toNat + t.toNat = t.toNat + 2 ^ p.timeW - l.toNat + 2 ^ p.timeW * (turns - 1) := by
      cases turns with
      | zero => simp at hturns
      | succ turns => rw [hturns, Nat.mul_succ, Nat.add_sub_cancel]; omega
    rw [BitVec.toNat_sub, Nat.mod_mod_of_dvd _ (Nat.pow_dvd_pow 2 (timeW_le p)), hdiff, Nat.add_mul_mod_self_left]
    exact Nat.mod_eq_of_lt (by omega)

/-! ## The gap wait (R174, R178) -/

/-- An undisturbed poll that finds the gap not elapsed yields and stays in the gap wait. -/
theorem gapPoll_yields {s : State} (hi : s.env.intruders = [])
    (hgap : ¬ s.minGap ≤ elapsed s.params (reading s) s.lastDone) : gapPoll s = emit [.yield] (now s) := by
  rw [gapPoll, if_neg (by simp [gapPassed, hgap])]
  exact window_quiet (s := emit [.yield] (now s)) hi

/-- Settles O20: the step is the poll, with its two outcomes. -/
theorem gapWaitPoll : Obligations.GapWaitPoll := by
  intro s hp hq
  rw [step_gapWait hp hq.noReset]
  split
  · next hgap => rw [gapPoll_passed hgap]; rfl
  · next hgap => rw [gapPoll_yields hq.noIntruders hgap, now, emit_emit]; rfl

/-- A poll of a stuck time input adds its two events and changes nothing else. -/
theorem step_gapWait_stuck {s : State} (hp : s.phase = .gapWait) (hq : s.Quiet) (htime : s.env.time = [])
    (hgap : elapsed s.params (reading s) s.lastDone < s.minGap) :
    step s = .next (emit [.time (reading s), .yield] s) := by
  have htail : ({ s.env with time := s.env.time.tail } : Env) = s.env := by rw [htime, List.tail_nil, ← htime]
  rw [step_gapWait hp hq.noReset, gapPoll_yields hq.noIntruders (BitVec.not_le.mpr hgap), now, emit_emit, htail]
  rfl

/-- Settles O22: each step adds the two events of its poll and keeps what the next poll depends on. -/
theorem stuckClockPollsForEver : Obligations.StuckClockPollsForEver := by
  intro s hp hq htime hgap n
  induction n generalizing s with
  | zero => simp
  | succ n ih =>
    rw [run_succ (step_gapWait_stuck hp hq htime hgap),
      ih (emit [.time (reading s), .yield] s) hp ⟨hq.noIntruders, hq.noReset⟩ htime hgap]
    simp [emit, reading, List.replicate_succ]

/-! ## The post-sequence (R177, R178) -/

/-- An undisturbed post-sequence yields and calls the flush. -/
theorem postStep_yield {s : State} (hpos : s.pos = .postYield) (hi : s.env.intruders = []) :
    postStep s = { emit [.yield, .flush] s with pos := .postFlush } := by
  rw [postStep, if_neg (by simp [hpos]), postYield, window_quiet (s := emit [.yield] s) hi, emit_emit]
  rfl

/-- In the flush of the post-sequence the step is that flush. -/
theorem postStep_flush {s : State} (hpos : s.pos = .postFlush) : postStep s = postFlushed s := if_pos hpos

/-- Undisturbed, the post-sequence waits in a flush that the transport does not complete (R178). -/
theorem postFlushed_waits {s : State} (hi : s.env.intruders = []) (hf : s.env.flushAcks = 0) : postFlushed s = s :=
  flushWait_zero hi hf

/-- With the flush complete the completion time is recorded, and the render ends. -/
theorem postFlushed_completes {s : State} {n : Nat} (hi : s.env.intruders = []) (hf : s.env.flushAcks = n + 1) :
    postFlushed s = { s with
      phase := .idle, pos := .rest, lastDone := reading s
      env := { s.env with flushAcks := n, time := s.env.time.tail }
      trace := s.trace ++ [.time (reading s)] } := flushWait_succ hi hf

/-- Settles O24: the step to the flush, and the step that completes it. -/
theorem postSequenceRecordsCompletion : Obligations.PostSequenceRecordsCompletion := by
  intro n s hp hpos hq hf
  have hyield : step s = .next { emit [.yield, .flush] s with pos := .postFlush } :=
    (step_post hp hq.noReset).trans (congrArg _ (postStep_yield hpos hq.noIntruders))
  have hflush := (step_post (s := { emit [.yield, .flush] s with pos := .postFlush }) hp hq.noReset).trans
    (congrArg _ ((postStep_flush rfl).trans (postFlushed_completes hq.noIntruders hf)))
  rw [run_succ hyield, run_succ hflush]
  simp [emit, reading]

/-- Settles O25: the step waits in the flush, and keeps the state. -/
theorem uncompletedFlushHangs : Obligations.UncompletedFlushHangs := by
  intro s hp hpos hq hf
  have hstep : step s = .next s := by
    rw [step_post hp hq.noReset, postStep_flush hpos, postFlushed_waits hq.noIntruders hf]
  exact run_of_step_self hstep

/-! ## ENCODE beside the driver (R179) -/

/-- Settles O48: the events of ENCODE are of the four kinds. -/
theorem encodeNeverYields : Obligations.EncodeNeverYields := by
  intro s t hp hstep
  refine (step_encode_appends hp hstep).imp fun es ⟨htrace, hes⟩ => ⟨htrace, fun e hm => ?_⟩
  cases hes e hm with
  | write b => exact .inl ⟨b, rfl⟩
  | switch id tag desc => exact .inr (.inl ⟨id, tag, desc, rfl⟩)
  | color idx => exact .inr (.inr (.inl ⟨idx, rfl⟩))
  | command c => exact .inr (.inr (.inr ⟨c, rfl⟩))

/-! ## The commands (R170 to R173) -/

/-- With its flush complete BEGIN opens the transport and captures the gap-timer reference. -/
theorem beginFlushed_completes (speed : U32) {s : State} {n : Nat} (hi : s.env.intruders = [])
    (hf : s.env.flushAcks = n + 1) :
    beginFlushed speed s = { s with
      phase := .idle, pos := .rest, speed := speed, isOpen := true, lastDone := reading s
      env := { s.env with flushAcks := n, time := s.env.time.tail }
      trace := s.trace ++ [.openPort speed, .time (reading s)] } := by
  simp [beginFlushed, flushWait_succ hi hf, toIdle, now, emit, reading]

/-- Settles O14: BEGIN asks for the flush, and it is complete; the machine is at rest before and after. -/
theorem beginOpensTransport : Obligations.BeginOpensTransport := by
  intro speed n s hs hi hf
  obtain ⟨hp, hpos⟩ := ready_iff.mp hs
  have hflush := (exec_beginTx_ready speed hs).trans (congrArg _ (beginFlushed_completes speed hi hf))
  rw [hflush]
  simp [emit, reading, hp, hpos]

/-- Settles O16: an idle machine runs the command's body, an event and OPEN. -/
theorem endClosesTransport : Obligations.EndClosesTransport := by
  intro _ hs
  rw [exec, execEnd, hostCommand_ready hs, emit]

/-- Settles O17: an idle machine runs the command's body, which keeps a tick of the operand. -/
theorem setgapKeepsLowTimeBits : Obligations.SetgapKeepsLowTimeBits := by
  intro _ _ hs
  rw [exec, execSetgap, hostCommand_ready hs, tick]

/-- An idle machine answers RENDER by the one test of R173, OPEN. -/
theorem exec_render_ready (pixelCount : U16) {s : State} (hs : s.ready) :
    exec (.render pixelCount) s = .next (if s.isOpen then { s with phase := .gapWait } else raise .closed s) := by
  rw [exec, execRender, hostCommand_ready hs]

/-- Settles O18: OPEN passes the test of R173. -/
theorem renderStartsGapWait : Obligations.RenderStartsGapWait := by
  intro pixelCount s hs hopen
  rw [exec_render_ready pixelCount hs, if_pos hopen]

/-- Settles O19: OPEN fails the test of R173, so RENDER is refused with REF_CLOSED. -/
theorem renderWhileClosedIsRefused : Obligations.RenderWhileClosedIsRefused := by
  intro pixelCount s hs hclosed
  rw [exec_render_ready pixelCount hs, if_neg (by simp [hclosed]), raise]

end Sys2Proof.Machine

/-! SUPPORT. Refusals: what each cause leaves, and what a refused instance answers (R192, R193). -/

namespace Sys2Proof.Machine

/-! ## After a refusal (R193) -/

/-- After a refusal a record has no meaning. -/
theorem sequencerStep_refused {body : State → State} {s : State} (h : s.phase = .refused) :
    sequencerStep body s = .refused .afterRefusal := unlessRefused_refused h

/-- After a refusal no instruction has a meaning: a command's frame, a record's and UNASSIGNED all test for it first. -/
theorem exec_refused (i : Instr) {s : State} (h : s.phase = .refused) : exec i s = .refused .afterRefusal := by
  by_cases hc : i.isCommand
  · obtain ⟨body, hbody⟩ := exec_command hc s
    rw [hbody, hostCommand_refused h]
  · cases i with
    | recSingleWire _ _ _ _ | recTerminator | recClockedData _ _ _ _ | recClockOnly _ _ | recUnrecognized _ _ =>
      simp only [exec, execRecSingleWire, execRecTerminator, execRecClockedData, execRecClockOnly, execRecUnrecognized,
        sequencerStep_refused h]
    | unassigned _ _ => rw [exec, execUnassigned, unlessRefused_refused h]
    | _ => exact absurd rfl hc

/-- Settles O42: neither a meaning nor, with no reset sample pending, a step gets past the test for PHASE REFUSED. -/
theorem refusalIsFinal : Obligations.RefusalIsFinal :=
  fun _ hrefused => ⟨fun i => exec_refused i hrefused, step_refused hrefused⟩

/-! ## A transaction of the wrong length (R192, R195) -/

/-- Which refusal a transaction of the wrong length meets: the count byte of a CFG is held against `maxCh` first (R120,
R195). -/
def badLengthReason (maxCh : Nat) : DecodeError → RefReason
  | .cfgLength n => if maxCh < n.toNat then .maxCh else .length
  | .noOpcode | .length _ => .length

/-- A transaction of the wrong length has no effect on a ready machine but its refusal. -/
theorem execBadLength_ready (e : DecodeError) {s : State} (hs : s.ready) :
    execBadLength e s = .next (raise (badLengthReason s.params.maxCh e) s) := by
  rw [execBadLength, hostCommand_ready hs]
  cases e with
  | noOpcode => rfl
  | length op => rfl
  | cfgLength n => simp only [badLengthReason, apply_ite (raise · s)]

/-- A transaction that does not decode is refused for its length. -/
theorem runTransaction_error {c : List Byte} {e : DecodeError} (h : decode c = .error e) (s : State) :
    runTransaction c s = execBadLength e s := by
  rw [runTransaction, h]

/-- Settles O40: the ready machine takes the transaction from the port, and the decoder's error selects the refusal. -/
theorem wrongLengthIsRefused : Obligations.WrongLengthIsRefused := by
  intro c rest e s hs hr hh hd
  rw [step_ready_runs hs hr hh, runTransaction_error hd, execBadLength_ready e (s := accept c rest s) hs]
  cases e <;> rfl

end Sys2Proof.Machine

/-! SUPPORT. Reset: what the state after it holds, and the steps that a reset takes (R220, R221). -/

namespace Sys2Proof.Machine

/-! ## The state after reset (R220, R221) -/

/-- A reset of a machine right after reset changes nothing. -/
theorem powerOn_resetWith (p : Params) : powerOn (State.resetWith p) = State.resetWith p := rfl

/-- MIN_GAP after reset is MIN_GAP_RESET as a time value, of TIME_W bits (R35). -/
theorem resetWith_minGap (p : Params) : (State.resetWith p).minGap = tick p p.minGapReset := rfl

/-- Settles O43: MIN_GAP holds a tick, and every other register the constant that R220 gives it. -/
theorem resetValues : Obligations.ResetValues := by
  intro p
  have hgap : (State.resetWith p).minGap.toNat = p.minGapReset.toNat % 2 ^ p.timeW := by
    rw [resetWith_minGap, toNat_tick]
  exact ⟨rfl, rfl, rfl, rfl, hgap, rfl, rfl, rfl, rfl, rfl⟩

/-- Settles O56: the reset state is one that a reset answers, and each of those meets the invariant. -/
theorem resetMeetsTheInvariant : Obligations.ResetMeetsTheInvariant :=
  fun p => powerOn_resetWith p ▸ powerOn_inv (State.resetWith p)

/-! ## The steps that a reset takes (R220, R42) -/

section

variable {s : State} {rest : List (Option Nat)}

/-- A reset at the start of a step comes before the sequencer's move. -/
theorem step_reset_at_start (hlive : s.phase ≠ .refused) (hr : s.env.resetLine = some 0 :: rest) :
    step s = .next (powerOn (withResets rest s)) := by
  simp [step, sampleReset, hlive, hr]

/-- A reset after an event of a step cuts the sequencer's move short. -/
theorem step_reset_inside {k : Nat} {u : State} (hlive : s.phase ≠ .refused)
    (hr : s.env.resetLine = some (k + 1) :: rest) (hmove : advance (withResets rest s) = .next u) :
    step s = .next (resetDuring (k + 1) s u) := by
  simp [step, sampleReset, hlive, hr, hmove]

/-- In PHASE REFUSED the next reset to come starts a new run (90_conflicts.md C10). -/
theorem step_reset_refused (hrefused : s.phase = .refused) (hr : afterNextReset s.env.resetLine = some rest) :
    step s = .next (powerOn (withResets rest s)) := by
  simp [step, sampleReset, hrefused, hr]

end

/-- Settles O44: a reset at a step's start, one inside the move that a live instance always has, and one past the samples
without a reset of a refused instance. -/
theorem resetAbandonsWhatRuns : Obligations.ResetAbandonsWhatRuns := by
  refine ⟨fun rest s hlive hr => step_reset_at_start hlive hr, fun k rest s hlive hr => ?_,
    fun quiet k rest s hrefused hquiet hr => ?_⟩
  · obtain ⟨u, hmove⟩ := advance_live (s := withResets rest s) hlive
    exact ⟨u, hmove, step_reset_inside hlive hr hmove⟩
  · have hnext : afterNextReset s.env.resetLine = some rest := hr ▸ afterNextReset_append hquiet k rest
    exact step_reset_refused hrefused hnext

end Sys2Proof.Machine
